-- ==== Sys2Proof/Word.lean ====
section
/-! DEFINITION. The two words of the block: the 32-bit register word and the byte of the serial line. -/

namespace Sys2Proof

/-- `u32` of rule R8: the width `W` = 32 bits of rule R7, held by `now`, `start`, `width`, `ACT`, the two halves of
`cmd` and the timer stamps.  The deviation integer (`DW` = 32 bits, two's complement) is the same word read signed. -/
abbrev Word := BitVec 32

/-- One byte of the serial line (rules R25, R171). -/
abbrev Byte := BitVec 8

end Sys2Proof
end

