-- ==== Sys2Proof/Syntax.lean ====
section
/-! DEFINITION. The operations of the block, one constructor per row of spec/opcode_table.json, and the two packet
forms in which a run writes them down (rule R60). -/

namespace Sys2Proof

/-- The five receiver channels in the numbering of rules R12 and R64: 0 steering, 1 throttle, 2 mode-select,
3 beacon-enable, 4 siren-enable.  The values 5, 6 and 7 name no channel, so no constructor stands for them. -/
inductive Channel where
  | steer
  | thr
  | mode
  | bcn
  | srn
  deriving DecidableEq, Repr

/-- A register file indexed by channel (rules R12, R40): one element per channel, no aliasing (rule R32). -/
structure PerChannel (α : Type) where
  steer : α
  thr : α
  mode : α
  bcn : α
  srn : α
  deriving DecidableEq, Repr

/-- The optional sign of a `D:` line (rule R70): `+` is 0x2B, `-` is 0x2D. -/
inductive Sign where
  | plus
  | minus
  deriving DecidableEq, Repr

/-- The operations of rule R63 (twenty descriptor rows) and the three recognised command lines of rules R69 and R70,
with their operands.  A channel operand is one of the five channels; the check against `CH_PRESENT` is in `WellFormed`. -/
inductive Instr where
  /-- `TICK dt` (R80): the time base advances by `dt` microseconds. -/
  | tick (dt : Word)
  /-- `RISE ch` (R81): the handler of pin `ch` runs for a low-to-high transition. -/
  | rise (ch : Channel)
  /-- `FALL ch` (R82): the handler of pin `ch` runs for a high-to-low transition. -/
  | fall (ch : Channel)
  /-- `READ ch` (R83): the main loop reads a channel's pulse width. -/
  | read (ch : Channel)
  /-- `MODE` (R100): decide the mode of this iteration. -/
  | mode
  /-- `MANT` (R103): the throttle half of the manual command. -/
  | mant
  /-- `MANS` (R104): the steering half of the manual command. -/
  | mans
  /-- `MAPDEV d` (R118): the deviation policy on `Deviation(d)`, `d` two's complement. -/
  | mapdev (d : Word)
  /-- `MAPSTOP` (R120): the deviation policy on `StopOrStraight`. -/
  | mapstop
  /-- `MAPUNR` (R121): the deviation policy on `Unrecognized`. -/
  | mapunr
  /-- `MAPNONE` (R122): an autonomous iteration with no complete command. -/
  | mapnone
  /-- `ACTWR` (R141): commit the iteration's command. -/
  | actwr
  /-- `FRAME` (R143): one output pulse on each actuator line. -/
  | frame
  /-- `STEP` (R156): one phase of the control loop. -/
  | step
  /-- `RESET` (R161): startup. -/
  | reset
  /-- `BYTE b` (R171): the serial handler runs for one received byte. -/
  | byte (b : Byte)
  /-- `TAKE` (R174): take a complete line, parse it, run the policy on it. -/
  | take
  /-- `IND` (R178): one step of the indicator scheduler. -/
  | ind
  /-- `BCN` (R181): one step of the beacon controller. -/
  | bcn
  /-- `SRN` (R182): one step of the siren controller. -/
  | srn
  /-- The command line `S` (R69): `pre` and `post` are the runs of white space around it. -/
  | lineS (pre post : List Byte)
  /-- The command line `N` (R69). -/
  | lineN (pre post : List Byte)
  /-- The command line `D:` with a signed integer (R69, R70). -/
  | lineD (pre : List Byte) (sign : Option Sign) (digits : List (Fin 10)) (post : List Byte)
  deriving DecidableEq, Repr

/-- One item of a run as it is written down.  The two encodings of rule R60 are told apart by what the environment
delivers, a descriptor or a line of the serial protocol, not by their bits. -/
inductive Packet where
  /-- Format `OPD` (R61): the 48 bits of one operation descriptor. -/
  | opd (w : BitVec 48)
  /-- Format `LINE` (R68): the bytes of one command line, its terminator included. -/
  | line (bytes : List Byte)
  deriving DecidableEq, Repr

end Sys2Proof
end

