-- ==== Sys2Proof/Config.lean ====
section
/-! DEFINITION. The configuration registers of rule R22, the constants of rule R5 and the open parameters of rule R7. -/

namespace Sys2Proof

/-- `D0_POLICY` (rules R6, R65, R119): what `Deviation(0)` does; 0 `hold`, 1 `neutral`. -/
inductive D0Policy where
  | hold
  | neutral
  deriving DecidableEq, Repr

/-- The configuration registers of rule R22 that are not fixed by the document, and the pin labels of rule R12.
No operation writes them. -/
structure Config where
  /-- Register 0, `CH_PRESENT`: bit `ch` says that channel `ch` exists. -/
  chPresent : BitVec 5
  /-- Register 1, `THR_LO`: lower bound of the manual throttle clamp. -/
  thrLo : Word
  /-- Register 2, `THR_HI`: upper bound of the manual throttle clamp. -/
  thrHi : Word
  /-- Register 6, `STOP_THR`: throttle of a stop command. -/
  stopThr : Word
  /-- Register 7, `D0_POLICY`. -/
  d0Policy : D0Policy
  /-- Register 8, `N_IS_STOP`: the line `N` means `StopOrStraight`. -/
  nIsStop : Bool
  /-- Register 11, `BUF_CAP`: capacity of the command buffer in bytes. -/
  bufCap : Nat
  /-- Register 12, `T_FRAME`: output frame period in microseconds; no rule reads it. -/
  tFrame : Word
  /-- Register 13, `BEACON_LEVEL`: intensity behind an "on" beacon line; no rule reads it. -/
  beaconLevel : Int
  /-- `PIN[ch]` (R12): an opaque label; no rule reads it. -/
  pin : PerChannel Nat
  deriving DecidableEq, Repr

/-! ### Constants the document fixes (rule R5; the registers marked "fixed" in rule R22) -/

/-- `NEUTRAL`: the centred pulse width and the reset value of every pulse-width register. -/
def Config.neutral : Word := 1500
/-- Register 3, `STEER_LO`. -/
def Config.steerLo : Word := 1000
/-- Register 4, `STEER_HI`. -/
def Config.steerHi : Word := 2000
/-- Register 5, `MODE_THR`. -/
def Config.modeThr : Word := 1500
/-- Register 9, `BEACON_THR`. -/
def Config.beaconThr : Word := 1600
/-- Register 10, `SIREN_THR`. -/
def Config.sirenThr : Word := 1500
/-- `REV_THR`: a throttle below it is reversing. -/
def Config.revThr : Word := 1500
/-- `LEFT_THR`: a steering value below it is a left turn. -/
def Config.leftThr : Word := 1450
/-- `RIGHT_THR`: a steering value above it is a right turn. -/
def Config.rightThr : Word := 1550
/-- `T_BLINK`: 200 ms. -/
def Config.tBlink : Word := 200000
/-- `T_BEACON`: 300 ms. -/
def Config.tBeacon : Word := 300000
/-- `T_SIREN`: 5 ms. -/
def Config.tSiren : Word := 5000
/-- `SIREN_F_LO`, in Hz. -/
def Config.sirenFLo : Int := 500
/-- `SIREN_F_HI`, in Hz. -/
def Config.sirenFHi : Int := 1000
/-- `SIREN_F_STEP`, in Hz. -/
def Config.sirenFStep : Int := 10
/-- `ACT_LO`: lower end of the range of an actuator command. -/
def Config.actLo : Word := 1000
/-- `ACT_HI`: upper end of the range of an actuator command. -/
def Config.actHi : Word := 2000

/-! ### Open parameters (rule R7): free values, constrained only as rule R22 constrains them -/

/-- How far `BUF_CAP` lies above its least legal value 16 (R22, R172): not in the spec, free. -/
opaque Config.openBufCap : Nat
/-- How far `T_FRAME` lies above its least legal value (R22): not in the spec, free. -/
opaque Config.openTFrame : Nat
/-- `BEACON_LEVEL` (R22): not in the spec, free; see `thisHardware` for the constraint that it is not zero. -/
opaque Config.openBeaconLevel : Int
/-- `PIN[ch]` by channel number (R12): not in the spec, free. -/
opaque Config.openPin : Nat → Nat

/-- The value each register takes in this hardware (rules R6, R22); an `OPEN` register takes a free legal value. -/
def Config.thisHardware : Config where
  chPresent := 0b11111
  thrLo := 1440
  thrHi := 1560
  stopThr := 1440
  d0Policy := .hold
  nIsStop := true
  bufCap := Config.openBufCap + 16
  tFrame := BitVec.ofNat 32 (Config.openTFrame % (2 ^ 32 - 2001) + 2001)
  beaconLevel := if Config.openBeaconLevel = 0 then 1 else Config.openBeaconLevel
  pin := ⟨Config.openPin 0, Config.openPin 1, Config.openPin 2, Config.openPin 3, Config.openPin 4⟩

/-- The legal values of rule R22. -/
abbrev Config.Legal (c : Config) : Prop :=
  (1000 ≤ c.thrLo ∧ c.thrLo ≤ 1500) ∧ c.thrLo ≤ c.thrHi ∧ (1500 ≤ c.thrHi ∧ c.thrHi ≤ 2000) ∧
  (1435 ≤ c.stopThr ∧ c.stopThr ≤ 1440) ∧ 16 ≤ c.bufCap ∧ 2000 < c.tFrame ∧ c.beaconLevel ≠ 0

/-- The configuration register with the given number in rule R22's table, as a number; there are fourteen. -/
def Config.register (c : Config) : Fin 14 → Int
  | 0 => c.chPresent.toNat
  | 1 => c.thrLo.toNat
  | 2 => c.thrHi.toNat
  | 3 => Config.steerLo.toNat
  | 4 => Config.steerHi.toNat
  | 5 => Config.modeThr.toNat
  | 6 => c.stopThr.toNat
  | 7 => match c.d0Policy with | .hold => 0 | .neutral => 1
  | 8 => if c.nIsStop then 1 else 0
  | 9 => Config.beaconThr.toNat
  | 10 => Config.sirenThr.toNat
  | 11 => c.bufCap
  | 12 => c.tFrame.toNat
  | 13 => c.beaconLevel

end Sys2Proof
end

