-- ==== Sys2Proof/Machine/Channels.lean ====
section
/-! DEFINITION. Channel numbers, `CH_PRESENT`, and whole-register access to a file indexed by channel (rules R12, R40, R43). -/

namespace Sys2Proof

/-- The index of a channel (rule R12). -/
def channelIndex : Channel → Nat
  | .steer => 0
  | .thr => 1
  | .mode => 2
  | .bcn => 3
  | .srn => 4

/-- The channel an index names, if any (rule R64: 5 and above name none). -/
def channelOfIndex : Nat → Option Channel
  | 0 => some .steer
  | 1 => some .thr
  | 2 => some .mode
  | 3 => some .bcn
  | 4 => some .srn
  | _ => none

/-- Bit `ch` of `CH_PRESENT` (rule R22). -/
def channelPresent (present : BitVec 5) (ch : Channel) : Bool :=
  present.getLsbD (channelIndex ch)

/-- `RegRead(file, ch)` of rule R8: the whole element, indivisibly (rule R43). -/
def PerChannel.get {α : Type} (f : PerChannel α) : Channel → α
  | .steer => f.steer
  | .thr => f.thr
  | .mode => f.mode
  | .bcn => f.bcn
  | .srn => f.srn

/-- `RegWrite(file, ch, v)` of rule R8: the whole element, indivisibly (rule R43), and no other (rule R32). -/
def PerChannel.set {α : Type} (f : PerChannel α) (ch : Channel) (v : α) : PerChannel α :=
  match ch with
  | .steer => { f with steer := v }
  | .thr => { f with thr := v }
  | .mode => { f with mode := v }
  | .bcn => { f with bcn := v }
  | .srn => { f with srn := v }

/-- The file whose every element is `v`. -/
def PerChannel.fill {α : Type} (v : α) : PerChannel α := ⟨v, v, v, v, v⟩

end Sys2Proof
end

