-- ==== Sys2Proof/Machine/LineText.lean ====
section
/-! DEFINITION. The text of a command line: white space, the signed decimal integer, the recognised forms
(rules R68 to R71, R75, R175, R176). -/

namespace Sys2Proof

/-- `LINE_TERM` (rule R5): byte 0x0A. -/
def lineTerm : Byte := 0x0A
/-- The character `S` (rule R69). -/
def chS : Byte := 0x53
/-- The character `N` (rule R69). -/
def chN : Byte := 0x4E
/-- The character `D` (rule R69). -/
def chD : Byte := 0x44
/-- The colon after `D` (rule R69). -/
def chColon : Byte := 0x3A
/-- The character `+` (rule R70). -/
def chPlus : Byte := 0x2B
/-- The character `-` (rule R70). -/
def chMinus : Byte := 0x2D

/-- The white space set `WS` of rules R7 and R175: space, tab, line feed, vertical tab, form feed, carriage return. -/
def isSpace (b : Byte) : Bool :=
  b == 0x20 || b == 0x09 || b == 0x0A || b == 0x0B || b == 0x0C || b == 0x0D

/-- `trim` of rule R175: white space is removed from the front and then from the back. -/
def trim (s : List Byte) : List Byte :=
  ((s.dropWhile isSpace).reverse.dropWhile isSpace).reverse

/-- A decimal digit 0x30 to 0x39 (rule R70). -/
def digitOf (b : Byte) : Option (Fin 10) :=
  if h : 0x30 ≤ b.toNat ∧ b.toNat ≤ 0x39 then some ⟨b.toNat - 0x30, by omega⟩ else none

/-- The byte of a decimal digit (rule R70). -/
def digitByte (d : Fin 10) : Byte := BitVec.ofNat 8 (0x30 + d.val)

/-- Every byte a digit, most significant first (rules R58, R70). -/
def readDigits : List Byte → Option (List (Fin 10))
  | [] => some []
  | b :: bs =>
    match digitOf b, readDigits bs with
    | some d, some ds => some (d :: ds)
    | _, _ => none

/-- One or more digits up to the end of the text (rule R70). -/
def readNonEmptyDigits (bs : List Byte) : Option (List (Fin 10)) :=
  if bs = [] then none else readDigits bs

/-- The grammar of rule R70 after `D:`: an optional sign, then one or more digits, then the end. -/
def readSigned : List Byte → Option (Option Sign × List (Fin 10))
  | [] => none
  | b :: bs =>
    if b = chMinus then (readNonEmptyDigits bs).map (fun ds => (some .minus, ds))
    else if b = chPlus then (readNonEmptyDigits bs).map (fun ds => (some .plus, ds))
    else (readNonEmptyDigits (b :: bs)).map (fun ds => (none, ds))

/-- The bytes of an optional sign (rule R70). -/
def signBytes : Option Sign → List Byte
  | none => []
  | some .plus => [chPlus]
  | some .minus => [chMinus]

/-- The digits read as a decimal number on mathematical integers (rules R70, R75). -/
def decimal (ds : List (Fin 10)) : Nat :=
  ds.foldl (fun acc d => 10 * acc + d.val) 0

/-- The digits' value, negated if the sign is `-` (rule R70). -/
def signedValue (sign : Option Sign) (ds : List (Fin 10)) : Int :=
  match sign with
  | some .minus => -(decimal ds : Int)
  | _ => (decimal ds : Int)

/-- The range of an `i32` (rules R8, R70). -/
def inI32 (v : Int) : Bool := decide (-(2 ^ 31) ≤ v ∧ v ≤ 2 ^ 31 - 1)

/-- What a trimmed line is (rule R69): the three recognised forms, and anything else. -/
inductive LineForm where
  | stop
  | straight
  | deviation (sign : Option Sign) (digits : List (Fin 10))
  | other
  deriving DecidableEq, Repr

/-- Rule R69 on a trimmed line: the match is on the whole line and case-sensitive; a number outside `i32` is not
recognised (rule R70). -/
def recognise (core : List Byte) : LineForm :=
  if core = [chS] then .stop
  else if core = [chN] then .straight
  else
    match core with
    | c₀ :: c₁ :: rest =>
      if c₀ = chD ∧ c₁ = chColon then
        match readSigned rest with
        | some (sign, digits) => if inI32 (signedValue sign digits) then .deviation sign digits else .other
        | none => .other
      else .other
    | _ => .other

/-- `ParsedCommand` of rule R115, its deviation an `i32`. -/
inductive ParsedCommand where
  | deviation (d : Word)
  | stopOrStraight
  | unrecognized
  deriving DecidableEq, Repr

/-- `parse` of rule R176: a pure function of the trimmed line and `N_IS_STOP`. -/
def parse (nIsStop : Bool) (core : List Byte) : ParsedCommand :=
  match recognise core with
  | .stop => .stopOrStraight
  | .straight => if nIsStop then .stopOrStraight else .unrecognized
  | .deviation sign digits => .deviation (BitVec.ofInt 32 (signedValue sign digits))
  | .other => .unrecognized

/-- The text of a `D:` line between its white space (rules R69, R70). -/
def deviationText (sign : Option Sign) (digits : List (Fin 10)) : List Byte :=
  chD :: chColon :: (signBytes sign ++ digits.map digitByte)

end Sys2Proof
end

