-- ==== Sys2Proof/WellFormed.lean ====
section
/-! DEFINITION. The checks of an operation's operands that its type does not make (rules R62, R64, R69, R70). -/

namespace Sys2Proof

/-- An operation that occurs in a run: a handler only of a channel that is present (R64), white space around a
command line only of the set `WS` (R69, R175), at least one digit and a value within `i32` on a `D:` line (R70). -/
def Instr.wellFormed (present : BitVec 5) : Instr → Bool
  | .rise ch => channelPresent present ch
  | .fall ch => channelPresent present ch
  | .lineS pre post => pre.all isSpace && post.all isSpace
  | .lineN pre post => pre.all isSpace && post.all isSpace
  | .lineD pre sign digits post =>
    pre.all isSpace && post.all isSpace && !digits.isEmpty && inI32 (signedValue sign digits)
  | .tick _ => true
  | .read _ => true
  | .mode => true
  | .mant => true
  | .mans => true
  | .mapdev _ => true
  | .mapstop => true
  | .mapunr => true
  | .mapnone => true
  | .actwr => true
  | .frame => true
  | .step => true
  | .reset => true
  | .byte _ => true
  | .take => true
  | .ind => true
  | .bcn => true
  | .srn => true

end Sys2Proof
end

