-- ==== Sys2Proof/Decode.lean ====
section
/-! DEFINITION. Decoding and encoding: the 48-bit operation descriptor (rules R61 to R67, R76) and the command line
(rules R68 to R71). -/

namespace Sys2Proof

/-- Why a packet spells no operation (rule R67). -/
inductive DecodeError where
  /-- `op` is 0x00 or 0x15..0xFF (R63, R67). -/
  | reservedOp (op : Byte)
  /-- A bit of `arg` that must be zero is not (R62). -/
  | nonZeroArg
  /-- A bit of `imm` that must be zero is not (R62). -/
  | nonZeroImm
  /-- `arg` names no channel (R64). -/
  | noSuchChannel (arg : Byte)
  /-- `RISE` or `FALL` of a channel whose `CH_PRESENT` bit is 0 (R64, R76). -/
  | absentChannel (ch : Channel)
  /-- A serial packet that does not end with the terminator is no line (R68). -/
  | noTerminator
  deriving DecidableEq, Repr

/-- What a packet is. -/
inductive Decoded where
  /-- An operation of the table. -/
  | op (i : Instr)
  /-- A whole command line of any other content: `Unrecognized`, and not an error (R69, R71). -/
  | otherLine (bytes : List Byte)
  /-- Ill formed: the run is refused (R67, R226). -/
  | bad (e : DecodeError)
  deriving DecidableEq, Repr

/-! ### The fields of a descriptor (rule R61) -/

/-- Bits 47:40, `op`. -/
def opField (w : BitVec 48) : Byte := w.extractLsb' 40 8
/-- Bits 39:32, `arg`. -/
def argField (w : BitVec 48) : Byte := w.extractLsb' 32 8
/-- Bits 31:0, `imm`. -/
def immField (w : BitVec 48) : Word := w.extractLsb' 0 32

/-- A descriptor from its three fields. -/
def descriptor (op arg : Byte) (imm : Word) : BitVec 48 := op ++ arg ++ imm

/-- The bytes of a stored descriptor: `op` first, `imm` most significant byte first (R61, a trace file's layout). -/
def descriptorBytes (w : BitVec 48) : List Byte :=
  [w.extractLsb' 40 8, w.extractLsb' 32 8, w.extractLsb' 24 8, w.extractLsb' 16 8, w.extractLsb' 8 8, w.extractLsb' 0 8]

/-- The descriptor six stored bytes spell (R61). -/
def descriptorOfBytes : List Byte → Option (BitVec 48)
  | [b₀, b₁, b₂, b₃, b₄, b₅] => some (b₀ ++ b₁ ++ b₂ ++ b₃ ++ b₄ ++ b₅)
  | _ => none

/-- A trace file read as packets, six bytes a descriptor (R61); `none` where bytes are left over. -/
def readTrace : List Byte → Option (List Packet)
  | [] => some []
  | b₀ :: b₁ :: b₂ :: b₃ :: b₄ :: b₅ :: rest =>
    match descriptorOfBytes [b₀, b₁, b₂, b₃, b₄, b₅], readTrace rest with
    | some w, some ps => some (.opd w :: ps)
    | _, _ => none
  | _ => none

/-! ### Decoding a descriptor (rule R76) -/

/-- An operation with no operand: `arg` and `imm` must be zero (R62). -/
def decodePlain (i : Instr) (arg : Byte) (imm : Word) : Except DecodeError Instr :=
  if arg ≠ 0 then .error .nonZeroArg else if imm ≠ 0 then .error .nonZeroImm else .ok i

/-- An operation whose operand is the whole of `imm`: `arg` must be zero (R62, R66). -/
def decodeImm (mk : Word → Instr) (arg : Byte) (imm : Word) : Except DecodeError Instr :=
  if arg ≠ 0 then .error .nonZeroArg else .ok (mk imm)

/-- `BYTE`: `arg` and `imm[31:8]` must be zero (R62, R66). -/
def decodeByte (arg : Byte) (imm : Word) : Except DecodeError Instr :=
  if arg ≠ 0 then .error .nonZeroArg
  else if imm.extractLsb' 8 24 ≠ 0 then .error .nonZeroImm
  else .ok (.byte (imm.extractLsb' 0 8))

/-- A channel operand: `imm` and `arg[7:3]` zero, `arg[2:0]` within 0..4 (R62, R64). -/
def decodeChannel (mk : Channel → Except DecodeError Instr) (arg : Byte) (imm : Word) : Except DecodeError Instr :=
  if imm ≠ 0 then .error .nonZeroImm
  else if arg.extractLsb' 3 5 ≠ 0 then .error .nonZeroArg
  else
    match channelOfIndex arg.toNat with
    | some ch => mk ch
    | none => .error (.noSuchChannel arg)

/-- A handler operation exists only for a channel that is present (R64, R87). -/
def decodeHandler (present : BitVec 5) (mk : Channel → Instr) (ch : Channel) : Except DecodeError Instr :=
  if channelPresent present ch then .ok (mk ch) else .error (.absentChannel ch)

/-- The operation codes of rule R63, on the three fields. -/
def decodeFields (present : BitVec 5) (op arg : Byte) (imm : Word) : Except DecodeError Instr :=
  match op.toNat with
  | 0x01 => decodeImm .tick arg imm
  | 0x02 => decodeChannel (decodeHandler present .rise) arg imm
  | 0x03 => decodeChannel (decodeHandler present .fall) arg imm
  | 0x04 => decodeChannel (fun ch => .ok (.read ch)) arg imm
  | 0x05 => decodePlain .mode arg imm
  | 0x06 => decodePlain .mant arg imm
  | 0x07 => decodePlain .mans arg imm
  | 0x08 => decodeImm .mapdev arg imm
  | 0x09 => decodePlain .mapstop arg imm
  | 0x0A => decodePlain .mapunr arg imm
  | 0x0B => decodePlain .mapnone arg imm
  | 0x0C => decodePlain .actwr arg imm
  | 0x0D => decodePlain .frame arg imm
  | 0x0E => decodePlain .step arg imm
  | 0x0F => decodePlain .reset arg imm
  | 0x10 => decodeByte arg imm
  | 0x11 => decodePlain .take arg imm
  | 0x12 => decodePlain .ind arg imm
  | 0x13 => decodePlain .bcn arg imm
  | 0x14 => decodePlain .srn arg imm
  | _ => .error (.reservedOp op)

/-- The operation a descriptor spells (rule R76); of the configuration it reads `CH_PRESENT` only. -/
def decodeDescriptor (present : BitVec 5) (w : BitVec 48) : Except DecodeError Instr :=
  decodeFields present (opField w) (argField w) (immField w)

/-! ### Decoding a command line (rules R68 to R70) -/

/-- A line's bytes cut at its terminator: the white space before its text, the text, the white space after it. -/
def splitLine (text : List Byte) : List Byte × List Byte × List Byte :=
  (text.takeWhile isSpace, trim text, (text.dropWhile isSpace).drop (trim text).length)

/-- A command line: one of the three recognised forms (R69, R70), or another line. -/
def decodeLine (bytes : List Byte) : Decoded :=
  if bytes.getLast? = some lineTerm then
    match splitLine bytes.dropLast with
    | (pre, core, post) =>
      match recognise core with
      | .stop => .op (.lineS pre post)
      | .straight => .op (.lineN pre post)
      | .deviation sign digits => .op (.lineD pre sign digits post)
      | .other => .otherLine bytes
  else .bad .noTerminator

/-- What a packet of a run is. -/
def decodePacket (present : BitVec 5) : Packet → Decoded
  | .opd w =>
    match decodeDescriptor present w with
    | .ok i => .op i
    | .error e => .bad e
  | .line bytes => decodeLine bytes

/-! ### Encoding -/

/-- The `arg` of a channel operand (R64). -/
def channelArg (ch : Channel) : Byte := BitVec.ofNat 8 (channelIndex ch)

/-- A command line with its white space and terminator (R68). -/
def lineBytes (pre core post : List Byte) : List Byte := pre ++ core ++ post ++ [lineTerm]

/-- The packet of an operation, from the encoding tables of rules R63, R69 and R70. -/
def encode : Instr → Packet
  | .tick dt => .opd (descriptor 0x01 0 dt)
  | .rise ch => .opd (descriptor 0x02 (channelArg ch) 0)
  | .fall ch => .opd (descriptor 0x03 (channelArg ch) 0)
  | .read ch => .opd (descriptor 0x04 (channelArg ch) 0)
  | .mode => .opd (descriptor 0x05 0 0)
  | .mant => .opd (descriptor 0x06 0 0)
  | .mans => .opd (descriptor 0x07 0 0)
  | .mapdev d => .opd (descriptor 0x08 0 d)
  | .mapstop => .opd (descriptor 0x09 0 0)
  | .mapunr => .opd (descriptor 0x0A 0 0)
  | .mapnone => .opd (descriptor 0x0B 0 0)
  | .actwr => .opd (descriptor 0x0C 0 0)
  | .frame => .opd (descriptor 0x0D 0 0)
  | .step => .opd (descriptor 0x0E 0 0)
  | .reset => .opd (descriptor 0x0F 0 0)
  | .byte b => .opd (descriptor 0x10 0 (b.setWidth 32))
  | .take => .opd (descriptor 0x11 0 0)
  | .ind => .opd (descriptor 0x12 0 0)
  | .bcn => .opd (descriptor 0x13 0 0)
  | .srn => .opd (descriptor 0x14 0 0)
  | .lineS pre post => .line (lineBytes pre [chS] post)
  | .lineN pre post => .line (lineBytes pre [chN] post)
  | .lineD pre sign digits post => .line (lineBytes pre (deviationText sign digits) post)

/-! ### Words numbered as spec/opcode_table.json numbers them -/

/-- `n` bytes of a table word, the first byte least significant: a command line is a sequence of bytes (R68). -/
def tableBytes (n w : Nat) : List Byte := (List.range n).map (fun k => BitVec.ofNat 8 (w >>> (8 * k)))

/-- A table word as a packet.  A descriptor row has one word of 48 bits, `op` in bits 47:40, laid out as rule R61
stores it and read back; anything that spells a recognised command line in its bytes is that line (no 48-bit word is
both: the line's terminator would be `op` 0x0A, `MAPUNR`, and its last character a non-zero `arg`). -/
def tablePacket (nbits w : Nat) : Packet :=
  let bytes := tableBytes (nbits / 8) w
  match decodeLine bytes with
  | .op _ => .line bytes
  | _ =>
    if nbits ≤ 48 then
      match descriptorOfBytes (descriptorBytes (BitVec.ofNat 48 w)) with
      | some d => .opd d
      | none => .line bytes
    else .line bytes

/-- The operation the decoder reads from a table word, with every channel present (`CH_PRESENT` of rule R6). -/
def decodeTableWord (nbits w : Nat) : Option Instr :=
  match decodePacket 0b11111 (tablePacket nbits w) with
  | .op i => some i
  | _ => none

end Sys2Proof
end

