-- ==== Sys2Proof/Machine/State.lean ====
section
/-! DEFINITION. Every piece of state of the block (rule R10), its value after reset (rule R31), and the reasons a
step can stop. -/

namespace Sys2Proof.Machine

/-- The operating mode (R17, R65): 0 `Manual`, 1 `Autonomous`. -/
inductive Mode where
  | manual
  | autonomous
  deriving DecidableEq, Repr

/-- `cmd.ind` (R18, R65): 0 `keep`, 1 `off`, 2 `run`; the value 3 is never produced and has no constructor. -/
inductive IndRequest where
  | keep
  | off
  | run
  deriving DecidableEq, Repr

/-- The mapper output latch `cmd` (R18). -/
structure Command where
  /-- `cmd.steer`, microseconds. -/
  steer : Word
  /-- `cmd.throttle`, microseconds. -/
  throttle : Word
  /-- `cmd.issue`: this iteration issues the pair; false is hold. -/
  issue : Bool
  /-- `cmd.ind`: what this iteration does to the indicator inhibit. -/
  ind : IndRequest
  deriving DecidableEq, Repr

/-- The actuator command registers (R19): `ACT[0]` steering, `ACT[1]` throttle. -/
structure Actuators where
  /-- `ACT[0]`. -/
  steer : Word
  /-- `ACT[1]`. -/
  throttle : Word
  deriving DecidableEq, Repr

/-- The command buffer (R25). -/
structure Receiver where
  /-- `buf`, first byte first (R58). -/
  buf : List Byte
  /-- `complete`. -/
  complete : Bool
  deriving DecidableEq, Repr

/-- The indicator state (R26). -/
structure Indicators where
  /-- `ind_inhibit`. -/
  inhibit : Bool
  /-- `indL`, 1 = lit. -/
  left : Bool
  /-- `indR`, 1 = lit. -/
  right : Bool
  /-- `tL`: `now` at the left side's last toggle. -/
  tL : Word
  /-- `tR`: `now` at the right side's last toggle. -/
  tR : Word
  deriving DecidableEq, Repr

/-- `bcn_phase` (R27, R65): 0 colour A, red on and blue off; 1 colour B, red off and blue on. -/
inductive BeaconPhase where
  | colourA
  | colourB
  deriving DecidableEq, Repr

/-- The beacon state (R27). -/
structure Beacon where
  /-- `bcn_phase`. -/
  phase : BeaconPhase
  /-- `bcnR`, 1 = driven at `BEACON_LEVEL`. -/
  red : Bool
  /-- `bcnB`. -/
  blue : Bool
  /-- `bcn3`, the third colour channel. -/
  third : Bool
  /-- `tB`: `now` at the last colour toggle. -/
  tB : Word
  deriving DecidableEq, Repr

/-- `srn_dir` (R28, R65): 0 sweeping up, 1 sweeping down. -/
inductive SweepDir where
  | up
  | down
  deriving DecidableEq, Repr

/-- The siren state (R28). -/
structure Siren where
  /-- `srn_on`: a tone is emitted. -/
  on : Bool
  /-- `srn_dir`. -/
  dir : SweepDir
  /-- `srn_f`, the tone's frequency in Hz. -/
  freq : Int
  /-- `tS`: `now` at the last frequency step. -/
  tS : Word
  deriving DecidableEq, Repr

/-- What an operation hands back to whoever issued it (R8): `READ`, `FRAME` and `TAKE` hand something back (R164). -/
inductive Result where
  /-- `READ`: a channel's pulse width (R83). -/
  | width (w : Word)
  /-- `FRAME`: the high times on the two actuator lines (R143). -/
  | frame (steer throttle : Word)
  /-- `TAKE`: the trimmed line, or none where no line was complete (R174). -/
  | taken (line : Option (List Byte))
  deriving DecidableEq, Repr

/-- The state of the block (R10), and beside it three fields that the spec keeps outside the state (R8, R22, R29) and
that a one-argument step has to carry: the read-only configuration, the run still to be performed, and the results
handed back so far. -/
structure State where
  /-- `now`, the microsecond time base (R11). -/
  now : Word
  /-- `start[ch]` (R13). -/
  start : PerChannel Word
  /-- `armed[ch]` (R14). -/
  armed : PerChannel Bool
  /-- `width[ch]` (R15). -/
  width : PerChannel Word
  /-- `mode` (R17). -/
  mode : Mode
  /-- `cmd` (R18). -/
  cmd : Command
  /-- `ACT[0..1]` (R19). -/
  act : Actuators
  /-- `seq`, the phase the next `STEP` performs (R20). -/
  seq : Fin 7
  /-- `buf`, `complete` (R25). -/
  rx : Receiver
  /-- `ind_inhibit`, `indL`, `indR`, `tL`, `tR` (R26). -/
  ind : Indicators
  /-- `bcn_phase`, `bcnR`, `bcnB`, `bcn3`, `tB` (R27). -/
  bcn : Beacon
  /-- `srn_on`, `srn_dir`, `srn_f`, `tS` (R28). -/
  srn : Siren
  /-- The configuration registers (R22); no operation writes them. -/
  cfg : Config
  /-- The model's own: the operations the environment has chosen and that are still to be performed (R29), first one next. -/
  trace : List Packet
  /-- The model's own: the results handed back so far, oldest first (R8, R164). -/
  results : List Result
  deriving DecidableEq, Repr

/-- The state after reset (R31), the configuration at this hardware's values (R22), no operation chosen yet and no
result handed back. -/
def State.reset : State where
  now := 0
  start := ⟨0, 0, 0, 0, 0⟩
  armed := ⟨false, false, false, false, false⟩
  width := ⟨1500, 1500, 1500, 1500, 1500⟩
  mode := .manual
  cmd := { steer := 1500, throttle := 1500, issue := false, ind := .keep }
  act := { steer := 1500, throttle := 1500 }
  seq := 0
  rx := { buf := [], complete := false }
  ind := { inhibit := false, left := false, right := false, tL := 0, tR := 0 }
  bcn := { phase := .colourA, red := false, blue := false, third := false, tB := 0 }
  srn := { on := false, dir := .up, freq := 500, tS := 0 }
  cfg := Config.thisHardware
  trace := []
  results := []

/-- The block raises no exception: "No operation traps, faults, aborts or halts" (R210).  There is no fault to name, so
the type has no constructor; safe, since the spec excludes every fault. -/
inductive Fault where
  deriving DecidableEq, Repr

/-- Why a step has no next state. -/
inductive Refusal where
  /-- Raised by `exec`'s arm of an instruction that has no meaning yet; safe. No arm raises it. -/
  | notModelled (mnemonic : String)
  /-- Raised by `step` for a packet that spells no operation: the run is refused (R67, R226); safe. -/
  | illFormed (e : DecodeError)
  /-- Raised by `RISE` and `FALL` of a channel whose `CH_PRESENT` bit is 0: "the operation cannot occur" (R64, R87); safe. -/
  | absentChannel (ch : Channel)
  /-- Raised by `step` when the environment's sequence is over: "a run ends where the sequence ends" (R164); safe. -/
  | runEnded
  deriving DecidableEq, Repr

end Sys2Proof.Machine
end

