-- ==== Sys2Proof/Machine/Operands.lean ====
section
/-! DEFINITION. The value functions of the operations: clamps, elapsed time, the deviation table, the numeric codes of
the small enumerations (rules R8, R65, R84, R102, R108, R116). -/

namespace Sys2Proof.Machine

/-- `clamp` on `u32` pulse widths, compared unsigned (R8, R102). -/
def clamp (v lo hi : Word) : Word :=
  if v < lo then lo else if hi < v then hi else v

/-- `clamp` on mathematical integers (R8, R116). -/
def clampInt (v lo hi : Int) : Int :=
  if v < lo then lo else if hi < v then hi else v

/-- `now −32 t`: the time since a stamp, modulo 2^32 and never signed (R11, R84). -/
def elapsed (now t : Word) : Word := now - t

/-- `map_manual` of R108, as a pair (steer, throttle): `wt` the throttle channel's width, `ws` the steering channel's. -/
def mapManual (cfg : Config) (wt ws : Word) : Word × Word :=
  (clamp ws Config.steerLo Config.steerHi, clamp wt cfg.thrLo cfg.thrHi)

/-- The computed steering value of bands 1 and 2 (R116, R124): on signed integers, clamped, then stored as a `u32`. -/
def proportionalSteer (d : Int) : Word := BitVec.ofInt 32 (clampInt (1500 - 40 * d) 1400 1600)

/-- The band table `map_dev` of R116 as a pair (steer, throttle); `none` is band 9, `d = 0`. -/
def mapDev (d : Int) : Option (Word × Word) :=
  if 0 < d ∧ d < 40 then some (proportionalSteer d, 1560)
  else if -40 < d ∧ d < 0 then some (proportionalSteer d, 1560)
  else if 40 ≤ d ∧ d < 80 then some (1000, 1550)
  else if -80 < d ∧ d ≤ -40 then some (2000, 1550)
  else if 80 ≤ d ∧ d < 100 then some (1800, 1440)
  else if -100 < d ∧ d ≤ -80 then some (1200, 1440)
  else if 100 ≤ d then some (1800, 1430)
  else if d ≤ -100 then some (1200, 1430)
  else none

/-! ### Codes of the small enumerations (R65) -/

/-- `mode`: 0 `Manual`, 1 `Autonomous`. -/
def Mode.code : Mode → BitVec 1
  | .manual => 0
  | .autonomous => 1

/-- `cmd.ind`: 0 `keep`, 1 `off`, 2 `run`. -/
def IndRequest.code : IndRequest → BitVec 2
  | .keep => 0
  | .off => 1
  | .run => 2

/-- `cmd.ind` from its two bits; the unused value 3 is treated as `keep` (R141). -/
def indRequestOfCode (c : BitVec 2) : IndRequest :=
  if c = 1 then .off else if c = 2 then .run else .keep

/-- `bcn_phase`: 0 colour A, 1 colour B. -/
def BeaconPhase.code : BeaconPhase → BitVec 1
  | .colourA => 0
  | .colourB => 1

/-- `srn_dir`: 0 up, 1 down. -/
def SweepDir.code : SweepDir → BitVec 1
  | .up => 0
  | .down => 1

/-- `seq` as its three bits (R20). -/
def seqCode (seq : Fin 7) : BitVec 3 := BitVec.ofNat 3 seq.val

/-- `RegRead(ACT, i)` for the actuator index of R47 and R65: 0 steering, 1 throttle. -/
def Actuators.get (a : Actuators) : Fin 2 → Word
  | 0 => a.steer
  | 1 => a.throttle

end Sys2Proof.Machine
end

