-- ==== Sys2Proof/Machine/Flags.lean ====
section
/-! DEFINITION. Every comparison that decides a flag of rule R21: the mode threshold, the indicator predicates, the
beacon and siren thresholds, the timers.  There are no arithmetic condition codes (R21). -/

namespace Sys2Proof.Machine

/-- `mode_of` of R108: `Autonomous` if the mode channel is strictly greater than 1500, unsigned, with no hysteresis (R101). -/
def modeOf (w : Word) : Mode := if Config.modeThr < w then .autonomous else .manual

/-- `rev` of R177. -/
def reversing (a : Actuators) : Bool := decide (a.throttle < Config.revThr)

/-- `left` of R177. -/
def turningLeft (a : Actuators) : Bool := !reversing a && decide (a.steer < Config.leftThr)

/-- `right` of R177. -/
def turningRight (a : Actuators) : Bool := !reversing a && decide (Config.rightThr < a.steer)

/-- A software timer fires when `now −32 t ≥u period` (R221). -/
def due (now t period : Word) : Bool := decide (period ≤ elapsed now t)

/-- The beacon is active while its channel's width is strictly greater than 1600 (R181). -/
def beaconActive (w : Word) : Bool := decide (Config.beaconThr < w)

/-- The siren is active while its channel's width is strictly greater than 1500 (R182). -/
def sirenActive (w : Word) : Bool := decide (Config.sirenThr < w)

/-- The other colour. -/
def BeaconPhase.toggle : BeaconPhase → BeaconPhase
  | .colourA => .colourB
  | .colourB => .colourA

end Sys2Proof.Machine
end

