-- ==== Sys2Proof/Machine/Ops.lean ====
section
/-! DEFINITION. The named operations over the registers: whole-register reads and writes (rules R8, R43), results
(R8), the serial receiver (R171), the policy's effect on `cmd` (R115 to R122).

Taking an exception: the block raises none (R210), and it has no saved pc, no saved status, no vector and no return
(R216, R217).  Taking an interrupt is performing its handler operation (R216), so the entry of a pin interrupt is
`RISE` or `FALL` and the entry of the serial interrupt is `BYTE`; nothing is saved and nothing is restored. -/

namespace Sys2Proof.Machine

/-! ### Whole-register writes (`RegWrite` of R8) -/

def State.withNow (s : State) (v : Word) : State := { s with now := v }
def State.writeStart (s : State) (ch : Channel) (v : Word) : State := { s with start := s.start.set ch v }
def State.writeArmed (s : State) (ch : Channel) (b : Bool) : State := { s with armed := s.armed.set ch b }
def State.writeWidth (s : State) (ch : Channel) (v : Word) : State := { s with width := s.width.set ch v }
def State.withMode (s : State) (m : Mode) : State := { s with mode := m }
def State.withCmd (s : State) (c : Command) : State := { s with cmd := c }
def State.withAct (s : State) (a : Actuators) : State := { s with act := a }
def State.withSeq (s : State) (p : Fin 7) : State := { s with seq := p }
def State.withRx (s : State) (r : Receiver) : State := { s with rx := r }
def State.withInd (s : State) (i : Indicators) : State := { s with ind := i }
def State.withBcn (s : State) (b : Beacon) : State := { s with bcn := b }
def State.withSrn (s : State) (f : Siren) : State := { s with srn := f }

/-- `result v` of R8: the value is handed back; it is no state of the block. -/
def State.giveResult (s : State) (r : Result) : State := { s with results := s.results ++ [r] }

/-- `RegRead(width, ch)` of R8 and R83: indivisible, without side effect (R43, R45). -/
def State.readWidth (s : State) (ch : Channel) : Word := s.width.get ch

/-! ### The serial receiver (R171, R172) -/

/-- One received byte: the terminator marks the line complete and is not stored; any other byte is appended while the
buffer has room, whether or not a line is complete (R173), and is dropped when it has none (R172). -/
def Receiver.accept (cap : Nat) (r : Receiver) (b : Byte) : Receiver :=
  if b = lineTerm then { r with complete := true }
  else if r.buf.length < cap then { r with buf := r.buf ++ [b] }
  else r

/-- Bytes received one after another, in arrival order (R58). -/
def Receiver.acceptAll (cap : Nat) (r : Receiver) (bytes : List Byte) : Receiver :=
  bytes.foldl (Receiver.accept cap) r

/-- The serial bytes of a command line reach the block as one `BYTE` after another (R60, R73). -/
def receiveLine (bytes : List Byte) (s : State) : State :=
  s.withRx (s.rx.acceptAll s.cfg.bufCap bytes)

/-! ### The deviation policy (R115 to R122) -/

/-- The command latch after `Deviation(0)`: R119. -/
def deviationZero (cfg : Config) (c : Command) : Command :=
  match cfg.d0Policy with
  | .hold => { c with issue := false, ind := .keep }
  | .neutral => { steer := Config.neutral, throttle := Config.neutral, issue := true, ind := .run }

/-- The command latch after `Deviation(d)`: R118, with R119 for band 9. -/
def policyDeviation (cfg : Config) (d : Word) (c : Command) : Command :=
  match mapDev d.toInt with
  | some (steer, throttle) => { steer := steer, throttle := throttle, issue := true, ind := .run }
  | none => deviationZero cfg c

/-- The command latch after `StopOrStraight`: R120. -/
def policyStop (cfg : Config) : Command :=
  { steer := Config.neutral, throttle := cfg.stopThr, issue := true, ind := .off }

/-- The command latch after `Unrecognized`: R121. -/
def policyUnrecognized (c : Command) : Command := { c with issue := false, ind := .off }

/-- The command latch where no complete command is waiting: R122. -/
def policyNone (c : Command) : Command := { c with issue := false, ind := .keep }

/-- `computeCommand` of R115 on a parsed command. -/
def policy (cfg : Config) (p : ParsedCommand) (c : Command) : Command :=
  match p with
  | .deviation d => policyDeviation cfg d c
  | .stopOrStraight => policyStop cfg
  | .unrecognized => policyUnrecognized c

end Sys2Proof.Machine
end

