-- ==== Sys2Proof/Machine/Annex.lean ====
section
/-! DEFINITION. The surrounding blocks: BYTE, TAKE, IND, BCN, SRN (spec/45_surrounding_blocks.md). -/

namespace Sys2Proof.Machine

/-! ### Command receiver and parser -/

/-- `BYTE b` (R171). -/
def execByte (b : Byte) (s : State) : Host.Outcome State Fault Refusal :=
  .next (s.withRx (s.rx.accept s.cfg.bufCap b))

/-- R174: take a complete line if there is one, in one operation with the clearing of the buffer, parse it, and run the
policy on it; otherwise R122. -/
def takeLine (s : State) : State :=
  if s.rx.complete then
    ((s.withRx { buf := [], complete := false }).withCmd
      (policy s.cfg (parse s.cfg.nIsStop (trim s.rx.buf)) s.cmd)).giveResult (.taken (some (trim s.rx.buf)))
  else (s.withCmd (policyNone s.cmd)).giveResult (.taken none)

/-- `TAKE` (R174). -/
def execTake (s : State) : Host.Outcome State Fault Refusal := .next (takeLine s)

/-! ### Indicator scheduler -/

/-- R178 on the indicator state, for the output registers `a` and the time `now`. -/
def Indicators.advance (a : Actuators) (now : Word) (i : Indicators) : Indicators :=
  if i.inhibit then { i with left := false, right := false }
  else if reversing a then { i with left := true, right := true }
  else if turningLeft a then
    if due now i.tL Config.tBlink then { i with right := false, left := !i.left, tL := now }
    else { i with right := false }
  else if turningRight a then
    if due now i.tR Config.tBlink then { i with left := false, right := !i.right, tR := now }
    else { i with left := false }
  else { i with left := false, right := false }

/-- R178. -/
def scheduleIndicators (s : State) : State := s.withInd (s.ind.advance s.act s.now)

/-- `IND` (R178). -/
def execInd (s : State) : Host.Outcome State Fault Refusal := .next (scheduleIndicators s)

/-! ### Beacon controller -/

/-- R181 while the beacon is active: the colour toggles when its timer is due, and the lines show the colour after that. -/
def Beacon.light (now : Word) (b : Beacon) : Beacon :=
  let toggles := due now b.tB Config.tBeacon
  let phase := if toggles then b.phase.toggle else b.phase
  { phase := phase
    red := decide (phase = .colourA)
    blue := decide (phase = .colourB)
    third := false
    tB := if toggles then now else b.tB }

/-- R181 on the beacon state, for the width `w` of channel 3 and the time `now`. -/
def Beacon.advance (w now : Word) (b : Beacon) : Beacon :=
  if beaconActive w then b.light now else { b with red := false, blue := false, third := false }

/-- R181. -/
def controlBeacon (s : State) : State := s.withBcn (s.bcn.advance (s.readWidth .bcn) s.now)

/-- `BCN` (R181). -/
def execBcn (s : State) : Host.Outcome State Fault Refusal := .next (controlBeacon s)

/-! ### Siren controller -/

/-- One 10 Hz step of the sweep (R182): the direction turns in the step in which the new frequency reaches a bound. -/
def Siren.sweep (now : Word) (f : Siren) : Siren :=
  match f.dir with
  | .up =>
    let freq := f.freq + Config.sirenFStep
    { f with freq := freq, dir := if Config.sirenFHi ≤ freq then .down else .up, tS := now }
  | .down =>
    let freq := f.freq - Config.sirenFStep
    { f with freq := freq, dir := if freq ≤ Config.sirenFLo then .up else .down, tS := now }

/-- R182 on the siren state, for the width `w` of channel 4 and the time `now`. -/
def Siren.advance (w now : Word) (f : Siren) : Siren :=
  if sirenActive w then
    let f := { f with on := true }
    if due now f.tS Config.tSiren then f.sweep now else f
  else { f with on := false }

/-- R182. -/
def controlSiren (s : State) : State := s.withSrn (s.srn.advance (s.readWidth .srn) s.now)

/-- `SRN` (R182). -/
def execSrn (s : State) : Host.Outcome State Fault Refusal := .next (controlSiren s)

end Sys2Proof.Machine
end

