-- ==== Sys2Proof/Machine/Capture.lean ====
section
/-! DEFINITION. Pulse-width capture: TICK, RISE, FALL, READ (spec/40_capture.md). -/

namespace Sys2Proof.Machine

/-- `TICK dt` (R80): `now <- now +32 dt`. -/
def execTick (dt : Word) (s : State) : Host.Outcome State Fault Refusal :=
  .next (s.withNow (s.now + dt))

/-- A handler runs only for a channel that has a pin (R64, R87). -/
def onPin (ch : Channel) (s t : State) : Host.Outcome State Fault Refusal :=
  if channelPresent s.cfg.chPresent ch then .next t else .refused (.absentChannel ch)

/-- `RISE ch` (R81): the pulse's start is the current time, also where a pulse is already being measured (R86). -/
def execRise (ch : Channel) (s : State) : Host.Outcome State Fault Refusal :=
  onPin ch s ((s.writeStart ch s.now).writeArmed ch true)

/-- `FALL ch` (R82): the elapsed time is published if a pulse was being measured, else nothing happens. -/
def execFall (ch : Channel) (s : State) : Host.Outcome State Fault Refusal :=
  onPin ch s
    (if s.armed.get ch then (s.writeWidth ch (elapsed s.now (s.start.get ch))).writeArmed ch false else s)

/-- `READ ch` (R83): the last published width, also of an absent channel. -/
def execRead (ch : Channel) (s : State) : Host.Outcome State Fault Refusal :=
  .next (s.giveResult (.width (s.readWidth ch)))

end Sys2Proof.Machine
end

