-- ==== Sys2Proof/Machine/CommandLine.lean ====
section
/-! DEFINITION. The recognised command lines as they are delivered: each is the bytes of its encoding, one `BYTE` after
another (rules R60, R68, R73).  What a line means to the policy is decided when it is taken (R174). -/

namespace Sys2Proof.Machine

/-- The line `S` (R69) is received. -/
def execLineS (pre post : List Byte) (s : State) : Host.Outcome State Fault Refusal :=
  .next (receiveLine (lineBytes pre [chS] post) s)

/-- The line `N` (R69) is received. -/
def execLineN (pre post : List Byte) (s : State) : Host.Outcome State Fault Refusal :=
  .next (receiveLine (lineBytes pre [chN] post) s)

/-- The line `D:` with a signed integer (R69, R70) is received. -/
def execLineD (pre : List Byte) (sign : Option Sign) (digits : List (Fin 10)) (post : List Byte) (s : State) :
    Host.Outcome State Fault Refusal :=
  .next (receiveLine (lineBytes pre (deviationText sign digits) post) s)

end Sys2Proof.Machine
end

