-- ==== Sys2Proof/Machine/ModeManual.lean ====
section
/-! DEFINITION. Mode comparator and manual clamp mapper: MODE, MANT, MANS (spec/41_mode_manual.md). -/

namespace Sys2Proof.Machine

/-- R100: the mode of this iteration from the mode-select channel. -/
def decideMode (s : State) : State := s.withMode (modeOf (s.readWidth .mode))

/-- R103: the throttle half of the manual command; `cmd.steer` unchanged. -/
def manualThrottle (s : State) : State :=
  s.withCmd
    { s.cmd with throttle := clamp (s.readWidth .thr) s.cfg.thrLo s.cfg.thrHi, issue := true, ind := .run }

/-- R104: the steering half of the manual command; `cmd.throttle` unchanged. -/
def manualSteer (s : State) : State :=
  s.withCmd
    { s.cmd with steer := clamp (s.readWidth .steer) Config.steerLo Config.steerHi, issue := true, ind := .run }

/-- `MODE` (R100). -/
def execMode (s : State) : Host.Outcome State Fault Refusal := .next (decideMode s)

/-- `MANT` (R103). -/
def execMant (s : State) : Host.Outcome State Fault Refusal := .next (manualThrottle s)

/-- `MANS` (R104). -/
def execMans (s : State) : Host.Outcome State Fault Refusal := .next (manualSteer s)

end Sys2Proof.Machine
end

