-- ==== Sys2Proof/Machine/Output.lean ====
section
/-! DEFINITION. Actuator command registers and output driver: ACTWR, FRAME (spec/43_output_driver.md). -/

namespace Sys2Proof.Machine

/-- The indicator inhibit after a commit (R141, R179); independent of `cmd.issue`. -/
def inhibitAfter (request : IndRequest) (inhibit : Bool) : Bool :=
  match request with
  | .off => true
  | .run => false
  | .keep => inhibit

/-- R141: both output registers are written together or not at all, and the indicator inhibit follows `cmd.ind`. -/
def commit (s : State) : State :=
  (s.withAct (if s.cmd.issue then { steer := s.cmd.steer, throttle := s.cmd.throttle } else s.act)).withInd
    { s.ind with inhibit := inhibitAfter s.cmd.ind s.ind.inhibit }

/-- `ACTWR` (R141). -/
def execActwr (s : State) : Host.Outcome State Fault Refusal := .next (commit s)

/-- `FRAME` (R143): the high times of this frame's two pulses; no state changes. -/
def execFrame (s : State) : Host.Outcome State Fault Refusal :=
  .next (s.giveResult (.frame s.act.steer s.act.throttle))

end Sys2Proof.Machine
end

