-- ==== Sys2Proof/Machine/Policy.lean ====
section
/-! DEFINITION. The deviation policy's operations: MAPDEV, MAPSTOP, MAPUNR, MAPNONE (spec/42_deviation_policy.md). -/

namespace Sys2Proof.Machine

/-- `MAPDEV d` (R118, R119). -/
def execMapdev (d : Word) (s : State) : Host.Outcome State Fault Refusal :=
  .next (s.withCmd (policyDeviation s.cfg d s.cmd))

/-- `MAPSTOP` (R120). -/
def execMapstop (s : State) : Host.Outcome State Fault Refusal := .next (s.withCmd (policyStop s.cfg))

/-- `MAPUNR` (R121). -/
def execMapunr (s : State) : Host.Outcome State Fault Refusal := .next (s.withCmd (policyUnrecognized s.cmd))

/-- `MAPNONE` (R122). -/
def execMapnone (s : State) : Host.Outcome State Fault Refusal := .next (s.withCmd (policyNone s.cmd))

end Sys2Proof.Machine
end

