-- ==== Sys2Proof/Machine/Sequencer.lean ====
section
/-! DEFINITION. The control-loop sequencer: STEP, RESET (spec/44_sequencer.md). -/

namespace Sys2Proof.Machine

/-- R157: the phase after `p`. -/
def nextPhase (p : Fin 7) : Fin 7 := if p = 6 then 0 else p + 1

/-- R156: what the phase `seq` performs, in the mode latched at phase 0 (R158). -/
def performPhase (s : State) : State :=
  match s.seq with
  | 0 => decideMode s
  | 1 => match s.mode with
    | .manual => manualThrottle s
    | .autonomous => takeLine s
  | 2 => match s.mode with
    | .manual => manualSteer s
    | .autonomous => s
  | 3 => commit s
  | 4 => scheduleIndicators s
  | 5 => controlBeacon s
  | 6 => controlSiren s

/-- `STEP` (R156): the phase and the advance of `seq` are one transition. -/
def execStep (s : State) : Host.Outcome State Fault Refusal :=
  .next ((performPhase s).withSeq (nextPhase s.seq))

/-- `RESET` (R161, R241): every element of R10 at its value of R31.  The configuration is not touched (R241); the rest
of the run and the results already handed back are no state of the block (R8, R29). -/
def execReset (s : State) : Host.Outcome State Fault Refusal :=
  .next { State.reset with cfg := s.cfg, trace := s.trace, results := s.results }

end Sys2Proof.Machine
end

