-- ==== Sys2Proof/Machine/Dispatch.lean ====
section
/-! DEFINITION. One arm per operation, each a direct call of its meaning. -/

namespace Sys2Proof.Machine

def exec (i : Instr) (s : State) : Host.Outcome State Fault Refusal :=
  match i with
  | .tick dt => Sys2Proof.Machine.execTick dt s
  | .rise ch => Sys2Proof.Machine.execRise ch s
  | .fall ch => Sys2Proof.Machine.execFall ch s
  | .read ch => Sys2Proof.Machine.execRead ch s
  | .mode => Sys2Proof.Machine.execMode s
  | .mant => Sys2Proof.Machine.execMant s
  | .mans => Sys2Proof.Machine.execMans s
  | .mapdev d => Sys2Proof.Machine.execMapdev d s
  | .mapstop => Sys2Proof.Machine.execMapstop s
  | .mapunr => Sys2Proof.Machine.execMapunr s
  | .mapnone => Sys2Proof.Machine.execMapnone s
  | .actwr => Sys2Proof.Machine.execActwr s
  | .frame => Sys2Proof.Machine.execFrame s
  | .step => Sys2Proof.Machine.execStep s
  | .reset => Sys2Proof.Machine.execReset s
  | .byte b => Sys2Proof.Machine.execByte b s
  | .take => Sys2Proof.Machine.execTake s
  | .ind => Sys2Proof.Machine.execInd s
  | .bcn => Sys2Proof.Machine.execBcn s
  | .srn => Sys2Proof.Machine.execSrn s
  | .lineS pre post => Sys2Proof.Machine.execLineS pre post s
  | .lineN pre post => Sys2Proof.Machine.execLineN pre post s
  | .lineD pre sign digits post => Sys2Proof.Machine.execLineD pre sign digits post s

end Sys2Proof.Machine
end

