-- ==== Sys2Proof/Machine/Fetch.lean ====
section
/-! DEFINITION. Taking the next item of the run and performing it (rules R29, R49, R67, R164). -/

namespace Sys2Proof.Machine

/-- Perform one packet: a well-formed operation has its meaning, a command line of any other content is received byte by
byte like the recognised ones (R60, R71), an ill-formed packet refuses the run (R67). -/
def performPacket (p : Packet) (s : State) : Host.Outcome State Fault Refusal :=
  match decodePacket s.cfg.chPresent p with
  | .op i => exec i s
  | .otherLine bytes => .next (receiveLine bytes s)
  | .bad e => .refused (.illFormed e)

/-- The next item of the run leaves the front of the sequence and is performed; with none left the run is over (R164). -/
def performNext (s : State) : Host.Outcome State Fault Refusal :=
  match s.trace with
  | [] => .refused .runEnded
  | p :: rest => performPacket p { s with trace := rest }

/-- The packet of a table word at the front of the run. -/
def putNext (s : State) (nbits w : Nat) : State := { s with trace := tablePacket nbits w :: s.trace }

end Sys2Proof.Machine
end

