-- ==== Sys2Proof/Machine/Step.lean ====
section
/-! DEFINITION. The machine's one step: the next operation of the environment's run. -/

namespace Sys2Proof.Machine

/-- One atomic operation of the run (R49). -/
def step (s : State) : Host.Outcome State Fault Refusal := performNext s

/-- `s` with a table word as the next item of its run. -/
def State.withFetchWord (s : State) (nbits w : Nat) : State := putNext s nbits w

end Sys2Proof.Machine
end

