-- ==== Sys2Proof/Machine/Contexts.lean ====
section
/-! DEFINITION. Who performs an operation, what that agent may write, and which channel widths an operation reads
(rules R24, R63, R85, R212, R220). -/

namespace Sys2Proof.Machine

/-- The agents of R63 and the execution contexts of R220. -/
inductive Agent where
  /-- Time and power: `TICK`, `RESET`. -/
  | environment
  /-- The interrupt context of pin `ch`: `RISE ch`, `FALL ch`. -/
  | pinHandler (ch : Channel)
  /-- The serial interrupt context: `BYTE`, and a command line, which is bytes. -/
  | serialHandler
  /-- The main loop. -/
  | mainLoop
  /-- The output driver: `FRAME`. -/
  | outputDriver
  deriving DecidableEq, Repr

/-- The column "agent" of R63. -/
def agentOf : Instr → Agent
  | .tick _ => .environment
  | .rise ch => .pinHandler ch
  | .fall ch => .pinHandler ch
  | .read _ => .mainLoop
  | .mode => .mainLoop
  | .mant => .mainLoop
  | .mans => .mainLoop
  | .mapdev _ => .mainLoop
  | .mapstop => .mainLoop
  | .mapunr => .mainLoop
  | .mapnone => .mainLoop
  | .actwr => .mainLoop
  | .frame => .outputDriver
  | .step => .mainLoop
  | .reset => .environment
  | .byte _ => .serialHandler
  | .take => .mainLoop
  | .ind => .mainLoop
  | .bcn => .mainLoop
  | .srn => .mainLoop
  | .lineS _ _ => .serialHandler
  | .lineN _ _ => .serialHandler
  | .lineD _ _ _ _ => .serialHandler

/-- `t` differs from `s` at most in what R24 and R220 let the agent write, besides `RESET`. -/
def Agent.writesOnlyItsOwn (a : Agent) (s t : State) : Prop :=
  match a with
  | .environment => t = { s with now := t.now }
  | .pinHandler ch =>
    t = { s with
      start := s.start.set ch (t.start.get ch)
      armed := s.armed.set ch (t.armed.get ch)
      width := s.width.set ch (t.width.get ch) }
  | .serialHandler =>
    t = { s with rx := t.rx } ∧ s.rx.buf <+: t.rx.buf ∧ (s.rx.complete = true → t.rx.complete = true)
  | .mainLoop =>
    t = { s with
      mode := t.mode, cmd := t.cmd, act := t.act, seq := t.seq, rx := t.rx, ind := t.ind, bcn := t.bcn, srn := t.srn
      results := t.results } ∧
    (t.rx = s.rx ∨ t.rx = { buf := [], complete := false }) ∧ s.results <+: t.results
  | .outputDriver => t = { s with results := t.results } ∧ s.results <+: t.results

/-- The channels whose `width` a main-loop operation reads in the state `s` (R12, R40); for `STEP` the phase decides. -/
def widthsRead (i : Instr) (s : State) : List Channel :=
  match i with
  | .read ch => [ch]
  | .mode => [.mode]
  | .mant => [.thr]
  | .mans => [.steer]
  | .bcn => [.bcn]
  | .srn => [.srn]
  | .step =>
    match s.seq, s.mode with
    | 0, _ => [.mode]
    | 1, .manual => [.thr]
    | 2, .manual => [.steer]
    | 5, _ => [.bcn]
    | 6, _ => [.srn]
    | _, _ => []
  | .tick _ => []
  | .rise _ => []
  | .fall _ => []
  | .mapdev _ => []
  | .mapstop => []
  | .mapunr => []
  | .mapnone => []
  | .actwr => []
  | .frame => []
  | .reset => []
  | .byte _ => []
  | .take => []
  | .ind => []
  | .lineS _ _ => []
  | .lineN _ _ => []
  | .lineD _ _ _ _ => []

end Sys2Proof.Machine
end

