-- ==== Sys2Proof/Machine/Written.lean ====
section
/-! DEFINITION. Sequences of operations, the pseudo-operations of rule R73, and the written form of rule R72. -/

namespace Sys2Proof.Machine

/-- A sequence of operations performed one after another, each on the state the one before it left (R49). -/
def execAll : List Instr → State → Host.Outcome State Fault Refusal
  | [], s => .next s
  | i :: is, s =>
    match exec i s with
    | .next t => execAll is t
    | .fault r => .fault r
    | .refused r => .refused r

/-- `PULSE ch, w` (R73). -/
def pulse (ch : Channel) (w : Word) : List Instr := [.rise ch, .tick w, .fall ch]

/-- `LINE "text"` (R73): the text's bytes, then the terminator. -/
def line (text : List Byte) : List Instr := text.map .byte ++ [.byte lineTerm]

/-- `ITER` (R73): seven `STEP`s. -/
def iter : List Instr := List.replicate 7 .step

/-- `WAIT t` (R73). -/
def wait (t : Word) : List Instr := [.tick t]

/-- The time that passes in a sequence, in microseconds: the sum of the `dt` of every `TICK` (R84). -/
def tickedTime : List Instr → Nat
  | [] => 0
  | .tick dt :: is => dt.toNat + tickedTime is
  | _ :: is => tickedTime is

/-- A channel operand's name (R72). -/
def channelName : Channel → String
  | .steer => "steer"
  | .thr => "thr"
  | .mode => "mode"
  | .bcn => "bcn"
  | .srn => "srn"

/-- One hexadecimal digit. -/
def hexDigit (n : Nat) : String := ("0123456789ABCDEF".toList.getD (n % 16) '0').toString

/-- A `BYTE` operand: `0x` and two hexadecimal digits (R72). -/
def byteOperand (b : Byte) : String := "0x" ++ hexDigit (b.toNat / 16) ++ hexDigit b.toNat

/-- The assembler line of an operation (R72); a command line is written as the `BYTE`s it expands to (R73). -/
def written : Instr → List String
  | .tick dt => ["TICK " ++ toString dt.toNat]
  | .rise ch => ["RISE " ++ channelName ch]
  | .fall ch => ["FALL " ++ channelName ch]
  | .read ch => ["READ " ++ channelName ch]
  | .mode => ["MODE"]
  | .mant => ["MANT"]
  | .mans => ["MANS"]
  | .mapdev d => ["MAPDEV " ++ toString d.toInt]
  | .mapstop => ["MAPSTOP"]
  | .mapunr => ["MAPUNR"]
  | .mapnone => ["MAPNONE"]
  | .actwr => ["ACTWR"]
  | .frame => ["FRAME"]
  | .step => ["STEP"]
  | .reset => ["RESET"]
  | .byte b => ["BYTE " ++ byteOperand b]
  | .take => ["TAKE"]
  | .ind => ["IND"]
  | .bcn => ["BCN"]
  | .srn => ["SRN"]
  | .lineS pre post => (lineBytes pre [chS] post).map (fun b => "BYTE " ++ byteOperand b)
  | .lineN pre post => (lineBytes pre [chN] post).map (fun b => "BYTE " ++ byteOperand b)
  | .lineD pre sign digits post =>
    (lineBytes pre (deviationText sign digits) post).map (fun b => "BYTE " ++ byteOperand b)

end Sys2Proof.Machine
end

