-- ==== Sys2Proof/Safety.lean ====
section
/-! DEFINITION. What holds of the machine at reset and after every operation, in the spec's own terms. -/

namespace Sys2Proof.Safety

open Sys2Proof.Machine

/-- "the 1000–2000 microsecond range" of an actuator command (R5, R19). -/
def InActuatorRange (w : Word) : Prop := 1000 ≤ w.toNat ∧ w.toNat ≤ 2000

/-- The range invariant of R144: the output registers, and the latch that `ACTWR` writes them from (R106, R123), are in
the actuator range, under a legal configuration (R22). -/
def ActuatorsInRange (s : State) : Prop :=
  s.cfg.Legal ∧ InActuatorRange s.act.steer ∧ InActuatorRange s.act.throttle ∧
    InActuatorRange s.cmd.steer ∧ InActuatorRange s.cmd.throttle

/-- The command buffer holds at most `BUF_CAP` bytes (R25, R172) and never the terminator (R171). -/
def BufferWithinCapacity (s : State) : Prop :=
  s.rx.buf.length ≤ s.cfg.bufCap ∧ lineTerm ∉ s.rx.buf

/-- Never both colours on, the third channel always off (R27, R181). -/
def BeaconOneColour (s : State) : Prop :=
  ¬ (s.bcn.red = true ∧ s.bcn.blue = true) ∧ s.bcn.third = false

/-- The siren's frequency is a multiple of 10 within 500..1000 (R28, R182), and at a bound the sweep already points
back into the range (R182). -/
def SirenInSweep (s : State) : Prop :=
  ∃ k : Nat, k ≤ 50 ∧ s.srn.freq = 500 + 10 * (k : Int) ∧
    (k = 50 → s.srn.dir = .down) ∧ (k = 0 → s.srn.dir = .up)

/-- The registers of a channel that is absent are at their reset values (R12, R87). -/
def AbsentChannelsAtReset (s : State) : Prop :=
  ∀ ch, channelPresent s.cfg.chPresent ch = false →
    s.start.get ch = 0 ∧ s.armed.get ch = false ∧ s.width.get ch = 1500

/-- `i` performs the indicator scheduler's step in the state `s`: `IND`, or `STEP` at phase 4 (R156). -/
def performsIndicators (i : Instr) (s : State) : Prop := i = .ind ∨ (i = .step ∧ s.seq = 4)

/-- `i` leads from `s` to `t`, and the left indicator toggles in it while turning left (R177, R178, R180). -/
def togglesLeft (i : Instr) (s t : State) : Prop :=
  performsIndicators i s ∧ exec i s = .next t ∧ s.ind.inhibit = false ∧ 1500 ≤ s.act.throttle.toNat ∧
    s.act.steer.toNat < 1450 ∧ t.ind.left = !s.ind.left

/-- All the invariants together. -/
structure MachineInv (s : State) : Prop where
  actuators : ActuatorsInRange s
  buffer : BufferWithinCapacity s
  beacon : BeaconOneColour s
  siren : SirenInSweep s
  absent : AbsentChannelsAtReset s

end Sys2Proof.Safety
end

