-- ==== Sys2Proof/Certificates/Slice0/Obligations.lean ====
section
/-! DEFINITION. The statements about the machine, from the numbered rules of spec/. Each says of an operation that it
completes, with the state it leaves and so with everything it leaves unchanged. -/

open Sys2Proof Sys2Proof.Machine Sys2Proof.Safety

/-! ### Encoding -/

/-- A few descriptors of V10 and P1, and a command line, decode as the spec writes them down. -/
def Obligations.SampleWordsDecode : Prop :=
  decodePacket 0b11111 (.opd 0x010000000640) = .op (.tick 1600) ∧
  decodePacket 0b11111 (.opd 0x020200000000) = .op (.rise .mode) ∧
  decodePacket 0b11111 (.opd 0x040400000000) = .op (.read .srn) ∧
  decodePacket 0b11111 (.opd 0x0E0000000000) = .op .step ∧
  decodePacket 0b11111 (.opd 0x1000000000D3) = .op (.byte 0xD3) ∧
  decodePacket 0b11111 (.line [0x44, 0x3A, 0x34, 0x35, 0x0A]) = .op (.lineD [] none [4, 5] []) ∧
  decodePacket 0b11111 (.opd 0x050100000000) = .bad .nonZeroArg ∧
  decodePacket 0b11111 (.opd 0x100000000153) = .bad .nonZeroImm ∧
  decodePacket 0b11111 (.opd 0x040800000000) = .bad .nonZeroArg ∧
  decodePacket 0b11111 (.opd 0x000000000000) = .bad (.reservedOp 0)

/-- Decoding what encoding wrote gives the operation back, with every operand it can have. -/
def Obligations.DecodeGivesBackEncodedOperation : Prop :=
  ∀ (present : BitVec 5) (i : Instr), i.wellFormed present = true → decodePacket present (encode i) = .op i

/-- One spelling per operation: whatever decodes to an operation is that operation's encoding, and the operation is
well formed. -/
def Obligations.OperationHasOneSpelling : Prop :=
  ∀ (present : BitVec 5) (p : Packet) (i : Instr), decodePacket present p = .op i →
    encode i = p ∧ i.wellFormed present = true

/-- The descriptors that refuse the run are exactly the ill-formed ones, told by their `op`, `arg` and `imm`. -/
def Obligations.IllFormedDescriptorsRefuseTheRun : Prop :=
  ∀ (s : State) (w : BitVec 48) (rest : List Packet), s.trace = .opd w :: rest →
    let op := w.toNat / 2 ^ 40
    let arg := w.toNat / 2 ^ 32 % 2 ^ 8
    let imm := w.toNat % 2 ^ 32
    (∃ e, step s = .refused (.illFormed e)) ↔
      (op = 0 ∨ 0x15 ≤ op) ∨
      ((op = 0x01 ∨ op = 0x08) ∧ arg ≠ 0) ∨
      ((op = 0x02 ∨ op = 0x03 ∨ op = 0x04) ∧ (imm ≠ 0 ∨ 5 ≤ arg)) ∨
      ((op = 0x02 ∨ op = 0x03) ∧ s.cfg.chPresent.getLsbD arg = false) ∨
      (op = 0x10 ∧ (arg ≠ 0 ∨ 256 ≤ imm)) ∨
      ((0x05 ≤ op ∧ op ≤ 0x07 ∨ 0x09 ≤ op ∧ op ≤ 0x0F ∨ 0x11 ≤ op ∧ op ≤ 0x14) ∧ (arg ≠ 0 ∨ imm ≠ 0))

/-- A stored descriptor has `op` first and `imm` most significant byte first, and a trace file is read back. -/
def Obligations.TraceFileIsReadBack : Prop :=
  (∀ (op arg b₃ b₂ b₁ b₀ : Byte),
    descriptorBytes (descriptor op arg (b₃ ++ b₂ ++ b₁ ++ b₀)) = [op, arg, b₃, b₂, b₁, b₀]) ∧
  ∀ ws : List (BitVec 48), readTrace (ws.flatMap descriptorBytes) = some (ws.map .opd)

/-! ### A step of the machine -/

/-- A step performs the operation the front of the run decodes to, on the state with that packet gone from the run.
That the run stands in the state is the model's own (log entry 2). -/
def Obligations.StepRunsTheDecodedOperation : Prop :=
  ∀ (s : State) (p : Packet) (rest : List Packet) (i : Instr), s.trace = p :: rest →
    decodePacket s.cfg.chPresent p = .op i → step s = exec i { s with trace := rest }

/-- A command line that is none of the recognised ones is received as its bytes, each by one `BYTE`. That such a line is
one item of the run, received whole in one step, is the model's own choice (log entry 7). -/
def Obligations.OtherLineIsReceivedAsItsBytes : Prop :=
  ∀ (s : State) (bytes : List Byte) (rest : List Packet), s.trace = .line bytes :: rest →
    decodePacket s.cfg.chPresent (.line bytes) = .otherLine bytes →
    (∃ t, step s = .next t) ∧ step s = execAll (bytes.map .byte) { s with trace := rest }

/-- With no operation left the run is over. The model's own choice (log entry 3): R164 says where a run ends, not what
a step is there. -/
def Obligations.RunEndsWhereItsSequenceEnds : Prop :=
  ∀ s : State, s.trace = [] → step s = .refused .runEnded

/-- Every step takes exactly one packet off the run, results are only added, and no operation writes the configuration.
The run and the results are the model's own fields (log entries 2 and 4). -/
def Obligations.StepTakesOnePacketAndKeepsConfiguration : Prop :=
  ∀ s t : State, step s = .next t →
    (∃ p, s.trace = p :: t.trace) ∧ t.cfg = s.cfg ∧ s.results <+: t.results

/-- Every well-formed operation completes in every state. -/
def Obligations.WellFormedOperationsComplete : Prop :=
  ∀ (i : Instr) (s : State), i.wellFormed s.cfg.chPresent = true → ∃ t, exec i s = .next t

/-! ### Capture -/

/-- `TICK`. -/
def Obligations.TickAddsModuloTwoToThe32 : Prop :=
  ∀ (dt dt' : Word) (s : State),
    encode (.tick dt) = .opd (descriptor 0x01 0 dt) ∧
    exec (.tick dt) s = .next { s with now := BitVec.ofNat 32 ((s.now.toNat + dt.toNat) % 2 ^ 32) } ∧
    execAll [.tick dt, .tick dt'] s = exec (.tick (dt + dt')) s

/-- `RISE`. -/
def Obligations.RiseRecordsThePulseStart : Prop :=
  ∀ (ch : Channel) (s : State),
    encode (.rise ch) = .opd (descriptor 0x02 (BitVec.ofNat 8 (channelIndex ch)) 0) ∧
    (channelPresent s.cfg.chPresent ch = true →
      ∃ start armed, exec (.rise ch) s = .next { s with start := start, armed := armed } ∧
        ∀ c, start.get c = (if c = ch then s.now else s.start.get c) ∧
          armed.get c = (if c = ch then true else s.armed.get c)) ∧
    (channelPresent s.cfg.chPresent ch = false → exec (.rise ch) s = .refused (.absentChannel ch))

/-- `FALL`. -/
def Obligations.FallPublishesTheElapsedTime : Prop :=
  ∀ (ch : Channel) (s : State),
    encode (.fall ch) = .opd (descriptor 0x03 (BitVec.ofNat 8 (channelIndex ch)) 0) ∧
    (channelPresent s.cfg.chPresent ch = true → s.armed.get ch = true →
      ∃ width armed, exec (.fall ch) s = .next { s with width := width, armed := armed } ∧
        ∀ c, width.get c = (if c = ch then
            BitVec.ofNat 32 ((s.now.toNat + 2 ^ 32 - (s.start.get ch).toNat) % 2 ^ 32) else s.width.get c) ∧
          armed.get c = (if c = ch then false else s.armed.get c)) ∧
    (channelPresent s.cfg.chPresent ch = true → s.armed.get ch = false → exec (.fall ch) s = .next s) ∧
    (channelPresent s.cfg.chPresent ch = false → exec (.fall ch) s = .refused (.absentChannel ch))

/-- `READ`. `results` is the sequence of what has been handed back (R8, R164; log entry 4). -/
def Obligations.ReadHandsBackTheWidth : Prop :=
  ∀ (ch : Channel) (s : State),
    encode (.read ch) = .opd (descriptor 0x04 (BitVec.ofNat 8 (channelIndex ch)) 0) ∧
    exec (.read ch) s = .next { s with results := s.results ++ [.width (s.width.get ch)] }

/-- The published width is the time that passed between the two handlers, whatever else happened in between. -/
def Obligations.PublishedWidthIsTheTimeInBetween : Prop :=
  ∀ (ch : Channel) (ops : List Instr) (s : State), channelPresent s.cfg.chPresent ch = true →
    (∀ i ∈ ops, i.wellFormed s.cfg.chPresent = true ∧ i ≠ .rise ch ∧ i ≠ .fall ch ∧ i ≠ .reset) →
    ∃ t, execAll (.rise ch :: ops ++ [.fall ch]) s = .next t ∧
      t.width.get ch = BitVec.ofNat 32 (tickedTime ops) ∧ t.armed.get ch = false

/-- Handlers of different channels commute, and a handler commutes with a main-loop operation that does not read its
channel's width. -/
def Obligations.HandlersCommute : Prop :=
  (∀ (a b : Channel) (i j : Instr) (s : State), a ≠ b →
    channelPresent s.cfg.chPresent a = true → channelPresent s.cfg.chPresent b = true →
    (i = .rise a ∨ i = .fall a) → (j = .rise b ∨ j = .fall b) →
    (∃ t, execAll [i, j] s = .next t) ∧ execAll [i, j] s = execAll [j, i] s) ∧
  (∀ (a : Channel) (i j : Instr) (s : State), channelPresent s.cfg.chPresent a = true →
    (i = .rise a ∨ i = .fall a) → agentOf j = .mainLoop → a ∉ widthsRead j s →
    (∃ t, execAll [i, j] s = .next t) ∧ execAll [i, j] s = execAll [j, i] s)

/-- The two halves of the manual command commute, the three controllers after the commit commute pairwise, and a byte
commutes with every pin handler. -/
def Obligations.IndependentOperationsCommute : Prop :=
  (∀ s : State, (∃ t, execAll [.mant, .mans] s = .next t) ∧
    execAll [.mant, .mans] s = execAll [.mans, .mant] s) ∧
  (∀ (i j : Instr) (s : State), i ∈ [Instr.ind, .bcn, .srn] → j ∈ [Instr.ind, .bcn, .srn] →
    (∃ t, execAll [i, j] s = .next t) ∧ (i ≠ j → execAll [i, j] s = execAll [j, i] s)) ∧
  (∀ (b : Byte) (ch : Channel) (i : Instr) (s : State), i = .rise ch ∨ i = .fall ch →
    execAll [.byte b, i] s = execAll [i, .byte b] s ∧
      (channelPresent s.cfg.chPresent ch = true → ∃ t, execAll [.byte b, i] s = .next t))

/-- Only a falling edge or a reset changes a width, and what a falling edge puts there is the time since the rising one. -/
def Obligations.OnlyFallOrResetChangesAWidth : Prop :=
  ∀ (i : Instr) (ch : Channel) (s t : State), exec i s = .next t → t.width.get ch ≠ s.width.get ch →
    (i = .fall ch ∧ s.armed.get ch = true ∧ t.width.get ch = s.now - s.start.get ch) ∨ i = .reset

/-- An absent channel keeps its reset values for ever. -/
def Obligations.AbsentChannelKeepsItsResetValues : Prop :=
  ∀ (s t : State) (ch : Channel), channelPresent s.cfg.chPresent ch = false →
    s.start.get ch = 0 → s.armed.get ch = false → s.width.get ch = 1500 → step s = .next t →
    channelPresent t.cfg.chPresent ch = false ∧
      t.start.get ch = 0 ∧ t.armed.get ch = false ∧ t.width.get ch = 1500

/-! ### Mode and manual mapping -/

/-- `MODE`. -/
def Obligations.ModeComparesStrictlyWithThreshold : Prop :=
  encode .mode = .opd 0x050000000000 ∧
  ∀ s : State,
    exec .mode s = .next { s with mode := if 1500 < s.width.mode.toNat then .autonomous else .manual } ∧
    execAll [.mode, .mode] s = exec .mode s

/-- `MANT`. -/
def Obligations.MantClampsTheThrottle : Prop :=
  encode .mant = .opd 0x060000000000 ∧
  ∀ s : State, exec .mant s = .next { s with cmd :=
    { steer := s.cmd.steer
      throttle :=
        if s.width.thr.toNat < s.cfg.thrLo.toNat then s.cfg.thrLo
        else if s.cfg.thrHi.toNat < s.width.thr.toNat then s.cfg.thrHi
        else s.width.thr
      issue := true
      ind := .run } }

/-- `MANS`. -/
def Obligations.MansClampsTheSteering : Prop :=
  encode .mans = .opd 0x070000000000 ∧
  ∀ s : State, exec .mans s = .next { s with cmd :=
    { steer :=
        if s.width.steer.toNat < 1000 then 1000
        else if 2000 < s.width.steer.toNat then 2000
        else s.width.steer
      throttle := s.cmd.throttle
      issue := true
      ind := .run } }

/-- `MANT` and `MANS` leave their half of the command inside its clamp, and under a legal configuration a manual command
is inside the actuator range. -/
def Obligations.ManualCommandIsInRange : Prop :=
  (∀ s : State, s.cfg.thrLo.toNat ≤ s.cfg.thrHi.toNat → ∃ t, exec .mant s = .next t ∧
    s.cfg.thrLo.toNat ≤ t.cmd.throttle.toNat ∧ t.cmd.throttle.toNat ≤ s.cfg.thrHi.toNat) ∧
  (∀ s : State, ∃ t, exec .mans s = .next t ∧ 1000 ≤ t.cmd.steer.toNat ∧ t.cmd.steer.toNat ≤ 2000) ∧
  (∀ s : State, s.cfg.Legal → ∃ t, execAll [.mant, .mans] s = .next t ∧
    InActuatorRange t.cmd.throttle ∧ InActuatorRange t.cmd.steer)

/-! ### Deviation policy -/

/-- `MAPDEV` follows the band table. -/
def Obligations.MapdevFollowsTheBandTable : Prop :=
  ∀ (d : Word) (s : State),
    let x := d.toInt
    let issues (steer throttle : Word) : Prop := exec (.mapdev d) s =
      .next { s with cmd := { steer := steer, throttle := throttle, issue := true, ind := .run } }
    encode (.mapdev d) = .opd (descriptor 0x08 0 d) ∧
    (0 < x ∧ x < 40 → issues (BitVec.ofInt 32 (max 1400 (min 1600 (1500 - 40 * x)))) 1560) ∧
    (-40 < x ∧ x < 0 → issues (BitVec.ofInt 32 (max 1400 (min 1600 (1500 - 40 * x)))) 1560) ∧
    (40 ≤ x ∧ x < 80 → issues 1000 1550) ∧
    (-80 < x ∧ x ≤ -40 → issues 2000 1550) ∧
    (80 ≤ x ∧ x < 100 → issues 1800 1440) ∧
    (-100 < x ∧ x ≤ -80 → issues 1200 1440) ∧
    (100 ≤ x → issues 1800 1430) ∧
    (x ≤ -100 → issues 1200 1430) ∧
    (x = 0 → s.cfg.d0Policy = .hold →
      exec (.mapdev d) s = .next { s with cmd := { s.cmd with issue := false, ind := .keep } }) ∧
    (x = 0 → s.cfg.d0Policy = .neutral → issues 1500 1500)

/-- `MAPSTOP`, `MAPUNR` and `MAPNONE`. -/
def Obligations.StopUnrecognizedAndNoneSetTheLatch : Prop :=
  encode .mapstop = .opd 0x090000000000 ∧ encode .mapunr = .opd 0x0A0000000000 ∧
  encode .mapnone = .opd 0x0B0000000000 ∧
  ∀ s : State,
    exec .mapstop s = .next { s with cmd :=
      { steer := 1500, throttle := s.cfg.stopThr, issue := true, ind := .off } } ∧
    exec .mapunr s = .next { s with cmd := { s.cmd with issue := false, ind := .off } } ∧
    exec .mapnone s = .next { s with cmd := { s.cmd with issue := false, ind := .keep } }

/-- Whatever the policy issues is one of the tabulated values, and in range. -/
def Obligations.PolicyIssuesTabulatedValues : Prop :=
  ∀ (i : Instr) (s t : State), s.cfg.Legal →
    ((∃ d, i = .mapdev d) ∨ i = .mapstop ∨ i = .mapunr ∨ i = .mapnone) →
    exec i s = .next t → t.cmd.issue = true →
    (1000 ≤ t.cmd.steer.toNat ∧ t.cmd.steer.toNat ≤ 2000) ∧
    (1430 ≤ t.cmd.throttle.toNat ∧ t.cmd.throttle.toNat ≤ 1560) ∧
    t.cmd.steer.toNat ∈ [1000, 1200, 1400, 1420, 1460, 1500, 1540, 1580, 1600, 1800, 2000] ∧
    (t.cmd.throttle.toNat ∈ [1430, 1440, 1550, 1560] ∨ t.cmd.throttle = s.cfg.stopThr ∨
      (t.cmd.throttle = 1500 ∧ s.cfg.d0Policy = .neutral))

/-! ### Output driver -/

/-- `ACTWR`. -/
def Obligations.ActwrCommitsBothOrNeither : Prop :=
  encode .actwr = .opd 0x0C0000000000 ∧
  ∀ s : State, exec .actwr s = .next { s with
    act := if s.cmd.issue = true then { steer := s.cmd.steer, throttle := s.cmd.throttle } else s.act
    ind := { s.ind with
      inhibit := if s.cmd.ind = .off then true else if s.cmd.ind = .run then false else s.ind.inhibit } }

/-- `FRAME`. `results` is the sequence of what has been handed back (R8, R164; log entry 4). -/
def Obligations.FrameHandsBackTheOutputPair : Prop :=
  encode .frame = .opd 0x0D0000000000 ∧
  ∀ s : State, exec .frame s = .next { s with results := s.results ++ [.frame s.act.steer s.act.throttle] }

/-- The output registers change only in a commit with `cmd.issue` set, or at reset. -/
def Obligations.OutputsHoldWithoutAnIssuedCommand : Prop :=
  ∀ (i : Instr) (s t : State), exec i s = .next t → t.act ≠ s.act →
    i = .reset ∨ (s.cmd.issue = true ∧ t.act = ⟨s.cmd.steer, s.cmd.throttle⟩ ∧
      (i = .actwr ∨ (i = .step ∧ s.seq = 3)))

/-- The range invariant of the output registers holds at reset and is kept by every step. -/
def Obligations.OutputsStayInActuatorRange : Prop :=
  (∀ s : State, s.cfg.Legal → ∃ t, exec .reset s = .next t ∧ ActuatorsInRange t) ∧
  ∀ s t : State, ActuatorsInRange s → step s = .next t → ActuatorsInRange t

/-! ### Sequencer -/

/-- `STEP` performs the operation its phase names and advances. -/
def Obligations.StepPerformsThePhaseAndAdvances : Prop :=
  encode .step = .opd 0x0E0000000000 ∧
  ∀ s : State, ∃ t,
    exec .step s = .next { t with seq := if s.seq = 6 then 0 else s.seq + 1 } ∧
    (s.seq = 0 → exec .mode s = .next t) ∧
    (s.seq = 1 → s.mode = .manual → exec .mant s = .next t) ∧
    (s.seq = 1 → s.mode = .autonomous → exec .take s = .next t) ∧
    (s.seq = 2 → s.mode = .manual → exec .mans s = .next t) ∧
    (s.seq = 2 → s.mode = .autonomous → t = s) ∧
    (s.seq = 3 → exec .actwr s = .next t) ∧
    (s.seq = 4 → exec .ind s = .next t) ∧
    (s.seq = 5 → exec .bcn s = .next t) ∧
    (s.seq = 6 → exec .srn s = .next t)

/-- The phase moves by one at a `STEP`, to 0 at a `RESET`, and not otherwise. -/
def Obligations.OnlyStepAndResetMoveThePhase : Prop :=
  ∀ (i : Instr) (s t : State), exec i s = .next t →
    t.seq.val = if i = .step then (s.seq.val + 1) % 7 else if i = .reset then 0 else s.seq.val

/-- The mode changes only at phase 0, at a direct `MODE`, or at reset. -/
def Obligations.ModeIsDecidedOncePerIteration : Prop :=
  ∀ (i : Instr) (s t : State), exec i s = .next t → t.mode ≠ s.mode →
    i = .mode ∨ (i = .step ∧ s.seq = 0) ∨ i = .reset

/-- One whole iteration as a function of the state it starts from. -/
def Obligations.IterationComputesOutputsFromInputs : Prop :=
  ∀ s : State, s.seq = 0 → ∃ t, execAll iter s = .next t ∧
    t.seq = 0 ∧ t.now = s.now ∧ t.start = s.start ∧ t.armed = s.armed ∧ t.width = s.width ∧
    t.cfg = s.cfg ∧ t.trace = s.trace ∧
    (s.width.mode.toNat ≤ 1500 →
      t.mode = .manual ∧ t.rx = s.rx ∧ t.results = s.results ∧ t.ind.inhibit = false ∧
      t.cmd = { steer := t.act.steer, throttle := t.act.throttle, issue := true, ind := .run } ∧
      t.act =
        { steer := if s.width.steer.toNat < 1000 then 1000
            else if 2000 < s.width.steer.toNat then 2000 else s.width.steer
          throttle := if s.width.thr.toNat < s.cfg.thrLo.toNat then s.cfg.thrLo
            else if s.cfg.thrHi.toNat < s.width.thr.toNat then s.cfg.thrHi else s.width.thr }) ∧
    (1500 < s.width.mode.toNat → s.rx.complete = false →
      t.mode = .autonomous ∧ t.rx = s.rx ∧ t.act = s.act ∧ t.ind.inhibit = s.ind.inhibit ∧
      t.cmd = { s.cmd with issue := false, ind := .keep } ∧
      t.results = s.results ++ [.taken none]) ∧
    (1500 < s.width.mode.toNat → s.rx.complete = true →
      t.mode = .autonomous ∧ t.rx = { buf := [], complete := false } ∧
      t.results = s.results ++ [.taken (some (trim s.rx.buf))] ∧
      ∃ u v, exec .take s = .next u ∧ exec .actwr u = .next v ∧ t.cmd = u.cmd ∧ t.act = v.act ∧
        t.ind.inhibit = v.ind.inhibit) ∧
    (∃ u, exec .ind { s with act := t.act, ind := { s.ind with inhibit := t.ind.inhibit } } = .next u ∧ t.ind = u.ind) ∧
    (∃ u, exec .bcn s = .next u ∧ t.bcn = u.bcn) ∧
    (∃ u, exec .srn s = .next u ∧ t.srn = u.srn)

/-- `RESET` gives every element its reset value, whatever it held, and does not touch the configuration. -/
def Obligations.ResetGivesEveryElementItsValue : Prop :=
  encode .reset = .opd 0x0F0000000000 ∧
  ∀ s : State, ∃ t, exec .reset s = .next t ∧ t.cfg = s.cfg ∧
    t = { t with
      now := 0
      start := PerChannel.fill 0
      armed := PerChannel.fill false
      width := PerChannel.fill 1500
      mode := .manual
      cmd := { steer := 1500, throttle := 1500, issue := false, ind := .keep }
      act := { steer := 1500, throttle := 1500 }
      seq := 0
      rx := { buf := [], complete := false }
      ind := { inhibit := false, left := false, right := false, tL := 0, tR := 0 }
      bcn := { phase := .colourA, red := false, blue := false, third := false, tB := 0 }
      srn := { on := false, dir := .up, freq := 500, tS := 0 } }

/-- `RESET` leaves the rest of the run and the results handed back so far. The model's own fields (log entries 2 and 4). -/
def Obligations.ResetKeepsTheRunAndItsResults : Prop :=
  ∀ s : State, ∃ t, exec .reset s = .next t ∧ t.trace = s.trace ∧ t.results = s.results

/-- The first iteration after `RESET`, with no input, leaves both outputs at neutral and every line off: both
indicators, the three beacon lines and the siren. -/
def Obligations.FirstIterationAfterResetIsNeutral : Prop :=
  ∀ s : State, s.cfg.Legal → ∃ t, execAll (.reset :: iter ++ [.frame]) s = .next t ∧
    t.results = s.results ++ [.frame 1500 1500] ∧ t.act = { steer := 1500, throttle := 1500 } ∧
    t.ind.left = false ∧ t.ind.right = false ∧ t.bcn.red = false ∧ t.bcn.blue = false ∧ t.bcn.third = false ∧
    t.srn.on = false

/-! ### Command receiver and parser -/

/-- `BYTE`. -/
def Obligations.ByteIsStoredOrTerminates : Prop :=
  ∀ (b : Byte) (s : State), encode (.byte b) = .opd (descriptor 0x10 0 (b.setWidth 32)) ∧
    exec (.byte b) s = .next { s with rx :=
    if b = 0x0A then { s.rx with complete := true }
    else if s.rx.buf.length < s.cfg.bufCap then { s.rx with buf := s.rx.buf ++ [b] }
    else s.rx }

/-- A command line that is received is its bytes without terminators, as far as they fit, and marks the buffer
complete. That a line's row means its reception is the model's reading (log entry 6). -/
def Obligations.CommandLinesAppendAndComplete : Prop :=
  ∀ (pre post : List Byte) (sign : Option Sign) (digits : List (Fin 10)) (s : State),
    let received (core : List Byte) : State := { s with rx :=
      { buf := s.rx.buf ++ ((pre ++ core ++ post).filter (· ≠ 0x0A)).take (s.cfg.bufCap - s.rx.buf.length)
        complete := true } }
    exec (.lineS pre post) s = .next (received [0x53]) ∧
    exec (.lineN pre post) s = .next (received [0x4E]) ∧
    exec (.lineD pre sign digits post) s =
      .next (received ([0x44, 0x3A] ++ signBytes sign ++ digits.map digitByte)) ∧
    exec (.lineS pre post) s = execAll (line (pre ++ [0x53] ++ post)) s ∧
    exec (.lineN pre post) s = execAll (line (pre ++ [0x4E] ++ post)) s ∧
    exec (.lineD pre sign digits post) s =
      execAll (line (pre ++ ([0x44, 0x3A] ++ signBytes sign ++ digits.map digitByte) ++ post)) s

/-- `TAKE`. `results` is the sequence of what has been handed back (R8, R164; log entry 4). -/
def Obligations.TakeParsesAndClearsACompleteLine : Prop :=
  encode .take = .opd 0x110000000000 ∧
  ∀ s : State,
    (s.rx.complete = true → ∃ u,
      (∀ d, parse s.cfg.nIsStop (trim s.rx.buf) = .deviation d → exec (.mapdev d) s = .next u) ∧
      (parse s.cfg.nIsStop (trim s.rx.buf) = .stopOrStraight → exec .mapstop s = .next u) ∧
      (parse s.cfg.nIsStop (trim s.rx.buf) = .unrecognized → exec .mapunr s = .next u) ∧
      exec .take s = .next { s with
        rx := { buf := [], complete := false }
        cmd := u.cmd
        results := s.results ++ [.taken (some (trim s.rx.buf))] }) ∧
    (s.rx.complete = false → ∃ u, exec .mapnone s = .next u ∧
      exec .take s = .next { u with results := s.results ++ [.taken none] })

/-- A second `TAKE` with no byte in between finds nothing and changes only the latch's two flags. -/
def Obligations.SecondTakeReturnsEmpty : Prop :=
  ∀ s : State, ∃ t, exec .take s = .next t ∧
    exec .take t = .next { t with
      cmd := { t.cmd with issue := false, ind := .keep }
      results := t.results ++ [.taken none] }

/-- `trim` removes white space from both ends and nothing else. -/
def Obligations.TrimRemovesOuterWhiteSpaceOnly : Prop :=
  ∀ text : List Byte, ∃ pre post, text = pre ++ trim text ++ post ∧
    (∀ b ∈ pre ++ post, b ∈ ([0x20, 0x09, 0x0A, 0x0B, 0x0C, 0x0D] : List Byte)) ∧
    (∀ b ∈ (trim text).head?, b ∉ ([0x20, 0x09, 0x0A, 0x0B, 0x0C, 0x0D] : List Byte)) ∧
    (∀ b ∈ (trim text).getLast?, b ∉ ([0x20, 0x09, 0x0A, 0x0B, 0x0C, 0x0D] : List Byte))

/-- `parse` recognises exactly `S`, `N` where it is a stop, and `D:` with an optional sign and one or more digits whose
value is within `i32`. -/
def Obligations.ParseRecognisesExactlyTheListedForms : Prop :=
  ∀ (nIsStop : Bool) (text : List Byte),
    (parse nIsStop text = .stopOrStraight ↔ text = [0x53] ∨ (text = [0x4E] ∧ nIsStop = true)) ∧
    (∀ d : Word, parse nIsStop text = .deviation d ↔
      ∃ (sign : List Byte) (digits : List (Fin 10)) (v : Int),
        text = [0x44, 0x3A] ++ sign ++ digits.map (fun k => BitVec.ofNat 8 (0x30 + k.val)) ∧ digits ≠ [] ∧
        ((sign = [] ∨ sign = [0x2B]) ∧ v = decimal digits ∨ sign = [0x2D] ∧ v = -(decimal digits : Int)) ∧
        -(2 ^ 31) ≤ v ∧ v ≤ 2 ^ 31 - 1 ∧ d.toInt = v)

/-- A digit string has the value its digits have at their decimal places. -/
def Obligations.DecimalIsThePlaceValue : Prop :=
  decimal [] = 0 ∧
  ∀ (d : Fin 10) (ds : List (Fin 10)), decimal (d :: ds) = d.val * 10 ^ ds.length + decimal ds

/-- A recognised line received into an empty buffer and then taken does what its parsed command does, and nothing is
lost on the way. That a line's row means its reception is the model's reading (log entry 6). -/
def Obligations.ReceivedLineIsTakenAsItsCommand : Prop :=
  ∀ (pre post : List Byte) (sign : Option Sign) (digits : List (Fin 10)) (s : State), s.rx.buf = [] →
    let taken (u : State) (core : List Byte) : State := { u with
      rx := { buf := [], complete := false }
      results := s.results ++ [.taken (some core)] }
    ((Instr.lineS pre post).wellFormed s.cfg.chPresent = true → pre.length + 1 + post.length ≤ s.cfg.bufCap →
      ∃ u, exec .mapstop s = .next u ∧ execAll [.lineS pre post, .take] s = .next (taken u [0x53])) ∧
    ((Instr.lineN pre post).wellFormed s.cfg.chPresent = true → pre.length + 1 + post.length ≤ s.cfg.bufCap →
      ∃ u, exec (if s.cfg.nIsStop then .mapstop else .mapunr) s = .next u ∧
        execAll [.lineN pre post, .take] s = .next (taken u [0x4E])) ∧
    ((Instr.lineD pre sign digits post).wellFormed s.cfg.chPresent = true →
      pre.length + (deviationText sign digits).length + post.length ≤ s.cfg.bufCap →
      ∃ u, exec (.mapdev (BitVec.ofInt 32 (signedValue sign digits))) s = .next u ∧
        execAll [.lineD pre sign digits post, .take] s = .next (taken u (deviationText sign digits)))

/-- Any two recognised lines received into an empty buffer that they fit, with no `TAKE` between them, are taken as one
text, what both hold but for terminators; it is unrecognized, so neither takes effect. That a line's row means its
reception is the model's reading (log entry 6). -/
def Obligations.LinesWithoutTakeRunTogether : Prop :=
  ∀ (i j : Instr) (first second : List Byte) (s : State), s.rx.buf = [] →
    encode i = .line first → encode j = .line second →
    i.wellFormed s.cfg.chPresent = true → j.wellFormed s.cfg.chPresent = true →
    ((first ++ second).filter (· ≠ 0x0A)).length ≤ s.cfg.bufCap →
    ∃ u, exec .mapunr s = .next u ∧ execAll [i, j, .take] s = .next { u with
      rx := { buf := [], complete := false }
      results := s.results ++ [.taken (some (trim ((first ++ second).filter (· ≠ 0x0A))))] }

/-! ### Indicators, beacon, siren -/

/-- `IND`. -/
def Obligations.IndFollowsTheScheduler : Prop :=
  encode .ind = .opd 0x120000000000 ∧
  ∀ s : State, exec .ind s = .next { s with ind :=
    if s.ind.inhibit = true then { s.ind with left := false, right := false }
    else if s.act.throttle.toNat < 1500 then { s.ind with left := true, right := true }
    else if s.act.steer.toNat < 1450 then
      if 200000 ≤ (s.now - s.ind.tL).toNat then { s.ind with right := false, left := !s.ind.left, tL := s.now }
      else { s.ind with right := false }
    else if 1550 < s.act.steer.toNat then
      if 200000 ≤ (s.now - s.ind.tR).toNat then { s.ind with left := false, right := !s.ind.right, tR := s.now }
      else { s.ind with left := false }
    else { s.ind with left := false, right := false } }

/-- Two toggles of the left indicator are at least 200000 microseconds apart, whatever happens between them short of a
reset; and every other change of it is a forcing, lit by reversing, dark by the inhibit, a right turn or neither turn. -/
def Obligations.LeftTogglesAreSpaced : Prop :=
  (∀ (i j : Instr) (ops : List Instr) (s₀ s₁ s₂ s₃ : State), togglesLeft i s₀ s₁ →
    execAll ops s₁ = .next s₂ → Instr.reset ∉ ops → togglesLeft j s₂ s₃ → 200000 ≤ tickedTime ops) ∧
  ∀ (i : Instr) (s t : State), exec i s = .next t → t.ind.left ≠ s.ind.left →
    i = .reset ∨ togglesLeft i s t ∨
    (performsIndicators i s ∧ s.ind.inhibit = false ∧ s.act.throttle.toNat < 1500 ∧ t.ind.left = true) ∨
    (performsIndicators i s ∧ (s.ind.inhibit = true ∨ 1500 ≤ s.act.throttle.toNat ∧ 1450 ≤ s.act.steer.toNat) ∧
      t.ind.left = false)

/-- `BCN`. -/
def Obligations.BcnFollowsTheController : Prop :=
  encode .bcn = .opd 0x130000000000 ∧
  ∀ s : State, exec .bcn s = .next { s with bcn :=
    if 1600 < s.width.bcn.toNat then
      if 300000 ≤ (s.now - s.bcn.tB).toNat then
        if s.bcn.phase = .colourA then { phase := .colourB, red := false, blue := true, third := false, tB := s.now }
        else { phase := .colourA, red := true, blue := false, third := false, tB := s.now }
      else if s.bcn.phase = .colourA then { s.bcn with red := true, blue := false, third := false }
      else { s.bcn with red := false, blue := true, third := false }
    else { s.bcn with red := false, blue := false, third := false } }

/-- The beacon never shows both colours, and its third line stays off: at reset, and kept by every step. -/
def Obligations.BeaconNeverShowsBothColours : Prop :=
  (∀ s : State, ∃ t, exec .reset s = .next t ∧ BeaconOneColour t) ∧
  ∀ s t : State, BeaconOneColour s → step s = .next t → BeaconOneColour t

/-- `SRN`. -/
def Obligations.SrnFollowsTheController : Prop :=
  encode .srn = .opd 0x140000000000 ∧
  ∀ s : State, exec .srn s = .next { s with srn :=
    if 1500 < s.width.srn.toNat then
      if 5000 ≤ (s.now - s.srn.tS).toNat then
        if s.srn.dir = .up then
          { on := true, freq := s.srn.freq + 10, dir := if 1000 ≤ s.srn.freq + 10 then .down else .up, tS := s.now }
        else
          { on := true, freq := s.srn.freq - 10, dir := if s.srn.freq - 10 ≤ 500 then .up else .down, tS := s.now }
      else { s.srn with on := true }
    else { s.srn with on := false } }

/-- The siren's frequency stays a multiple of 10 within 500..1000: at reset, and kept by every step. -/
def Obligations.SirenStaysInItsSweep : Prop :=
  (∀ s : State, ∃ t, exec .reset s = .next t ∧ SirenInSweep t) ∧
  ∀ s t : State, SirenInSweep s → step s = .next t → SirenInSweep t

/-! ### The whole machine -/

/-- Each agent writes only its own state; `results` is the model's record of what is handed back (log entry 4). -/
def Obligations.AgentsWriteOnlyTheirOwnState : Prop :=
  ∀ (i : Instr) (s t : State), i ≠ .reset → exec i s = .next t → (agentOf i).writesOnlyItsOwn s t

/-- The machine's invariant holds in the state after reset, whatever the values of the open parameters (log entry 5). -/
def Obligations.InvariantHoldsAtReset : Prop := MachineInv State.reset

/-- Every step keeps the machine's invariant. -/
def Obligations.EveryStepKeepsTheInvariant : Prop :=
  ∀ s t : State, MachineInv s → step s = .next t → MachineInv t
end

