-- ==== Sys2Proof/Laws/Channels.lean ====
section
/-! SUPPORT. A file indexed by channel: read after write, independence of the elements, channel numbers. -/

namespace Sys2Proof

/-- A write changes its own element and no other (R32). -/
theorem PerChannel.get_set {α : Type} (f : PerChannel α) (ch c : Channel) (v : α) :
    (f.set ch v).get c = if c = ch then v else f.get c := by
  cases ch <;> cases c <;> rfl

@[simp] theorem PerChannel.get_set_self {α : Type} (f : PerChannel α) (ch : Channel) (v : α) :
    (f.set ch v).get ch = v := by
  cases ch <;> rfl

theorem PerChannel.get_set_ne {α : Type} (f : PerChannel α) {ch c : Channel} (v : α) (h : c ≠ ch) :
    (f.set ch v).get c = f.get c := by
  simp [PerChannel.get_set, h]

@[simp] theorem PerChannel.set_get {α : Type} (f : PerChannel α) (ch : Channel) : f.set ch (f.get ch) = f := by
  cases ch <;> rfl

@[simp] theorem PerChannel.set_set {α : Type} (f : PerChannel α) (ch : Channel) (v w : α) :
    (f.set ch v).set ch w = f.set ch w := by
  cases ch <;> rfl

/-- Writes to different channels may be swapped (R57). -/
theorem PerChannel.set_comm {α : Type} (f : PerChannel α) {a b : Channel} (v w : α) (h : a ≠ b) :
    (f.set a v).set b w = (f.set b w).set a v := by
  cases a <;> cases b <;> first | rfl | exact absurd rfl h

/-- Two files with the same elements are the same file. -/
theorem PerChannel.ext_get {α : Type} {f g : PerChannel α} (h : ∀ c, f.get c = g.get c) : f = g := by
  obtain ⟨_, _, _, _, _⟩ := f
  obtain ⟨_, _, _, _, _⟩ := g
  have h₀ := h .steer
  have h₁ := h .thr
  have h₂ := h .mode
  have h₃ := h .bcn
  have h₄ := h .srn
  simp only [PerChannel.get] at h₀ h₁ h₂ h₃ h₄
  simp [h₀, h₁, h₂, h₃, h₄]

@[simp] theorem channelOfIndex_channelIndex (ch : Channel) : channelOfIndex (channelIndex ch) = some ch := by
  cases ch <;> rfl

theorem channelIndex_lt (ch : Channel) : channelIndex ch < 5 := by
  cases ch <;> decide

/-- An index names a channel exactly if it is that channel's index (R12). -/
theorem channelOfIndex_eq_some {n : Nat} {ch : Channel} : channelOfIndex n = some ch ↔ n = channelIndex ch := by
  constructor
  · intro h
    match n, h with
    | 0, h | 1, h | 2, h | 3, h | 4, h => cases ch <;> simp_all [channelOfIndex, channelIndex]
    | n + 5, h => simp [channelOfIndex] at h
  · rintro rfl
    simp

/-- The indices 5 and above name no channel (R64). -/
theorem channelOfIndex_eq_none {n : Nat} : channelOfIndex n = none ↔ 5 ≤ n := by
  match n with
  | 0 | 1 | 2 | 3 | 4 => simp [channelOfIndex]
  | n + 5 => simp [channelOfIndex]

end Sys2Proof
end

