-- ==== Sys2Proof/Laws/State.lean ====
section
/-! SUPPORT. One lemma per field of `State` and per named write: the written field holds the value, every other field is kept. -/

namespace Sys2Proof.Machine

@[simp] theorem State.withNow_now (s : State) (v : Word) : (s.withNow v).now = v := rfl
@[simp] theorem State.withNow_start (s : State) (v : Word) : (s.withNow v).start = s.start := rfl
@[simp] theorem State.withNow_armed (s : State) (v : Word) : (s.withNow v).armed = s.armed := rfl
@[simp] theorem State.withNow_width (s : State) (v : Word) : (s.withNow v).width = s.width := rfl
@[simp] theorem State.withNow_mode (s : State) (v : Word) : (s.withNow v).mode = s.mode := rfl
@[simp] theorem State.withNow_cmd (s : State) (v : Word) : (s.withNow v).cmd = s.cmd := rfl
@[simp] theorem State.withNow_act (s : State) (v : Word) : (s.withNow v).act = s.act := rfl
@[simp] theorem State.withNow_seq (s : State) (v : Word) : (s.withNow v).seq = s.seq := rfl
@[simp] theorem State.withNow_rx (s : State) (v : Word) : (s.withNow v).rx = s.rx := rfl
@[simp] theorem State.withNow_ind (s : State) (v : Word) : (s.withNow v).ind = s.ind := rfl
@[simp] theorem State.withNow_bcn (s : State) (v : Word) : (s.withNow v).bcn = s.bcn := rfl
@[simp] theorem State.withNow_srn (s : State) (v : Word) : (s.withNow v).srn = s.srn := rfl
@[simp] theorem State.withNow_cfg (s : State) (v : Word) : (s.withNow v).cfg = s.cfg := rfl
@[simp] theorem State.withNow_trace (s : State) (v : Word) : (s.withNow v).trace = s.trace := rfl
@[simp] theorem State.withNow_results (s : State) (v : Word) : (s.withNow v).results = s.results := rfl

@[simp] theorem State.writeStart_now (s : State) (ch : Channel) (v : Word) : (s.writeStart ch v).now = s.now := rfl
@[simp] theorem State.writeStart_start (s : State) (ch : Channel) (v : Word) : (s.writeStart ch v).start = s.start.set ch v := rfl
@[simp] theorem State.writeStart_armed (s : State) (ch : Channel) (v : Word) : (s.writeStart ch v).armed = s.armed := rfl
@[simp] theorem State.writeStart_width (s : State) (ch : Channel) (v : Word) : (s.writeStart ch v).width = s.width := rfl
@[simp] theorem State.writeStart_mode (s : State) (ch : Channel) (v : Word) : (s.writeStart ch v).mode = s.mode := rfl
@[simp] theorem State.writeStart_cmd (s : State) (ch : Channel) (v : Word) : (s.writeStart ch v).cmd = s.cmd := rfl
@[simp] theorem State.writeStart_act (s : State) (ch : Channel) (v : Word) : (s.writeStart ch v).act = s.act := rfl
@[simp] theorem State.writeStart_seq (s : State) (ch : Channel) (v : Word) : (s.writeStart ch v).seq = s.seq := rfl
@[simp] theorem State.writeStart_rx (s : State) (ch : Channel) (v : Word) : (s.writeStart ch v).rx = s.rx := rfl
@[simp] theorem State.writeStart_ind (s : State) (ch : Channel) (v : Word) : (s.writeStart ch v).ind = s.ind := rfl
@[simp] theorem State.writeStart_bcn (s : State) (ch : Channel) (v : Word) : (s.writeStart ch v).bcn = s.bcn := rfl
@[simp] theorem State.writeStart_srn (s : State) (ch : Channel) (v : Word) : (s.writeStart ch v).srn = s.srn := rfl
@[simp] theorem State.writeStart_cfg (s : State) (ch : Channel) (v : Word) : (s.writeStart ch v).cfg = s.cfg := rfl
@[simp] theorem State.writeStart_trace (s : State) (ch : Channel) (v : Word) : (s.writeStart ch v).trace = s.trace := rfl
@[simp] theorem State.writeStart_results (s : State) (ch : Channel) (v : Word) : (s.writeStart ch v).results = s.results := rfl

@[simp] theorem State.writeArmed_now (s : State) (ch : Channel) (b : Bool) : (s.writeArmed ch b).now = s.now := rfl
@[simp] theorem State.writeArmed_start (s : State) (ch : Channel) (b : Bool) : (s.writeArmed ch b).start = s.start := rfl
@[simp] theorem State.writeArmed_armed (s : State) (ch : Channel) (b : Bool) : (s.writeArmed ch b).armed = s.armed.set ch b := rfl
@[simp] theorem State.writeArmed_width (s : State) (ch : Channel) (b : Bool) : (s.writeArmed ch b).width = s.width := rfl
@[simp] theorem State.writeArmed_mode (s : State) (ch : Channel) (b : Bool) : (s.writeArmed ch b).mode = s.mode := rfl
@[simp] theorem State.writeArmed_cmd (s : State) (ch : Channel) (b : Bool) : (s.writeArmed ch b).cmd = s.cmd := rfl
@[simp] theorem State.writeArmed_act (s : State) (ch : Channel) (b : Bool) : (s.writeArmed ch b).act = s.act := rfl
@[simp] theorem State.writeArmed_seq (s : State) (ch : Channel) (b : Bool) : (s.writeArmed ch b).seq = s.seq := rfl
@[simp] theorem State.writeArmed_rx (s : State) (ch : Channel) (b : Bool) : (s.writeArmed ch b).rx = s.rx := rfl
@[simp] theorem State.writeArmed_ind (s : State) (ch : Channel) (b : Bool) : (s.writeArmed ch b).ind = s.ind := rfl
@[simp] theorem State.writeArmed_bcn (s : State) (ch : Channel) (b : Bool) : (s.writeArmed ch b).bcn = s.bcn := rfl
@[simp] theorem State.writeArmed_srn (s : State) (ch : Channel) (b : Bool) : (s.writeArmed ch b).srn = s.srn := rfl
@[simp] theorem State.writeArmed_cfg (s : State) (ch : Channel) (b : Bool) : (s.writeArmed ch b).cfg = s.cfg := rfl
@[simp] theorem State.writeArmed_trace (s : State) (ch : Channel) (b : Bool) : (s.writeArmed ch b).trace = s.trace := rfl
@[simp] theorem State.writeArmed_results (s : State) (ch : Channel) (b : Bool) : (s.writeArmed ch b).results = s.results := rfl

@[simp] theorem State.writeWidth_now (s : State) (ch : Channel) (v : Word) : (s.writeWidth ch v).now = s.now := rfl
@[simp] theorem State.writeWidth_start (s : State) (ch : Channel) (v : Word) : (s.writeWidth ch v).start = s.start := rfl
@[simp] theorem State.writeWidth_armed (s : State) (ch : Channel) (v : Word) : (s.writeWidth ch v).armed = s.armed := rfl
@[simp] theorem State.writeWidth_width (s : State) (ch : Channel) (v : Word) : (s.writeWidth ch v).width = s.width.set ch v := rfl
@[simp] theorem State.writeWidth_mode (s : State) (ch : Channel) (v : Word) : (s.writeWidth ch v).mode = s.mode := rfl
@[simp] theorem State.writeWidth_cmd (s : State) (ch : Channel) (v : Word) : (s.writeWidth ch v).cmd = s.cmd := rfl
@[simp] theorem State.writeWidth_act (s : State) (ch : Channel) (v : Word) : (s.writeWidth ch v).act = s.act := rfl
@[simp] theorem State.writeWidth_seq (s : State) (ch : Channel) (v : Word) : (s.writeWidth ch v).seq = s.seq := rfl
@[simp] theorem State.writeWidth_rx (s : State) (ch : Channel) (v : Word) : (s.writeWidth ch v).rx = s.rx := rfl
@[simp] theorem State.writeWidth_ind (s : State) (ch : Channel) (v : Word) : (s.writeWidth ch v).ind = s.ind := rfl
@[simp] theorem State.writeWidth_bcn (s : State) (ch : Channel) (v : Word) : (s.writeWidth ch v).bcn = s.bcn := rfl
@[simp] theorem State.writeWidth_srn (s : State) (ch : Channel) (v : Word) : (s.writeWidth ch v).srn = s.srn := rfl
@[simp] theorem State.writeWidth_cfg (s : State) (ch : Channel) (v : Word) : (s.writeWidth ch v).cfg = s.cfg := rfl
@[simp] theorem State.writeWidth_trace (s : State) (ch : Channel) (v : Word) : (s.writeWidth ch v).trace = s.trace := rfl
@[simp] theorem State.writeWidth_results (s : State) (ch : Channel) (v : Word) : (s.writeWidth ch v).results = s.results := rfl

@[simp] theorem State.withMode_now (s : State) (m : Mode) : (s.withMode m).now = s.now := rfl
@[simp] theorem State.withMode_start (s : State) (m : Mode) : (s.withMode m).start = s.start := rfl
@[simp] theorem State.withMode_armed (s : State) (m : Mode) : (s.withMode m).armed = s.armed := rfl
@[simp] theorem State.withMode_width (s : State) (m : Mode) : (s.withMode m).width = s.width := rfl
@[simp] theorem State.withMode_mode (s : State) (m : Mode) : (s.withMode m).mode = m := rfl
@[simp] theorem State.withMode_cmd (s : State) (m : Mode) : (s.withMode m).cmd = s.cmd := rfl
@[simp] theorem State.withMode_act (s : State) (m : Mode) : (s.withMode m).act = s.act := rfl
@[simp] theorem State.withMode_seq (s : State) (m : Mode) : (s.withMode m).seq = s.seq := rfl
@[simp] theorem State.withMode_rx (s : State) (m : Mode) : (s.withMode m).rx = s.rx := rfl
@[simp] theorem State.withMode_ind (s : State) (m : Mode) : (s.withMode m).ind = s.ind := rfl
@[simp] theorem State.withMode_bcn (s : State) (m : Mode) : (s.withMode m).bcn = s.bcn := rfl
@[simp] theorem State.withMode_srn (s : State) (m : Mode) : (s.withMode m).srn = s.srn := rfl
@[simp] theorem State.withMode_cfg (s : State) (m : Mode) : (s.withMode m).cfg = s.cfg := rfl
@[simp] theorem State.withMode_trace (s : State) (m : Mode) : (s.withMode m).trace = s.trace := rfl
@[simp] theorem State.withMode_results (s : State) (m : Mode) : (s.withMode m).results = s.results := rfl

@[simp] theorem State.withCmd_now (s : State) (c : Command) : (s.withCmd c).now = s.now := rfl
@[simp] theorem State.withCmd_start (s : State) (c : Command) : (s.withCmd c).start = s.start := rfl
@[simp] theorem State.withCmd_armed (s : State) (c : Command) : (s.withCmd c).armed = s.armed := rfl
@[simp] theorem State.withCmd_width (s : State) (c : Command) : (s.withCmd c).width = s.width := rfl
@[simp] theorem State.withCmd_mode (s : State) (c : Command) : (s.withCmd c).mode = s.mode := rfl
@[simp] theorem State.withCmd_cmd (s : State) (c : Command) : (s.withCmd c).cmd = c := rfl
@[simp] theorem State.withCmd_act (s : State) (c : Command) : (s.withCmd c).act = s.act := rfl
@[simp] theorem State.withCmd_seq (s : State) (c : Command) : (s.withCmd c).seq = s.seq := rfl
@[simp] theorem State.withCmd_rx (s : State) (c : Command) : (s.withCmd c).rx = s.rx := rfl
@[simp] theorem State.withCmd_ind (s : State) (c : Command) : (s.withCmd c).ind = s.ind := rfl
@[simp] theorem State.withCmd_bcn (s : State) (c : Command) : (s.withCmd c).bcn = s.bcn := rfl
@[simp] theorem State.withCmd_srn (s : State) (c : Command) : (s.withCmd c).srn = s.srn := rfl
@[simp] theorem State.withCmd_cfg (s : State) (c : Command) : (s.withCmd c).cfg = s.cfg := rfl
@[simp] theorem State.withCmd_trace (s : State) (c : Command) : (s.withCmd c).trace = s.trace := rfl
@[simp] theorem State.withCmd_results (s : State) (c : Command) : (s.withCmd c).results = s.results := rfl

@[simp] theorem State.withAct_now (s : State) (a : Actuators) : (s.withAct a).now = s.now := rfl
@[simp] theorem State.withAct_start (s : State) (a : Actuators) : (s.withAct a).start = s.start := rfl
@[simp] theorem State.withAct_armed (s : State) (a : Actuators) : (s.withAct a).armed = s.armed := rfl
@[simp] theorem State.withAct_width (s : State) (a : Actuators) : (s.withAct a).width = s.width := rfl
@[simp] theorem State.withAct_mode (s : State) (a : Actuators) : (s.withAct a).mode = s.mode := rfl
@[simp] theorem State.withAct_cmd (s : State) (a : Actuators) : (s.withAct a).cmd = s.cmd := rfl
@[simp] theorem State.withAct_act (s : State) (a : Actuators) : (s.withAct a).act = a := rfl
@[simp] theorem State.withAct_seq (s : State) (a : Actuators) : (s.withAct a).seq = s.seq := rfl
@[simp] theorem State.withAct_rx (s : State) (a : Actuators) : (s.withAct a).rx = s.rx := rfl
@[simp] theorem State.withAct_ind (s : State) (a : Actuators) : (s.withAct a).ind = s.ind := rfl
@[simp] theorem State.withAct_bcn (s : State) (a : Actuators) : (s.withAct a).bcn = s.bcn := rfl
@[simp] theorem State.withAct_srn (s : State) (a : Actuators) : (s.withAct a).srn = s.srn := rfl
@[simp] theorem State.withAct_cfg (s : State) (a : Actuators) : (s.withAct a).cfg = s.cfg := rfl
@[simp] theorem State.withAct_trace (s : State) (a : Actuators) : (s.withAct a).trace = s.trace := rfl
@[simp] theorem State.withAct_results (s : State) (a : Actuators) : (s.withAct a).results = s.results := rfl

@[simp] theorem State.withSeq_now (s : State) (p : Fin 7) : (s.withSeq p).now = s.now := rfl
@[simp] theorem State.withSeq_start (s : State) (p : Fin 7) : (s.withSeq p).start = s.start := rfl
@[simp] theorem State.withSeq_armed (s : State) (p : Fin 7) : (s.withSeq p).armed = s.armed := rfl
@[simp] theorem State.withSeq_width (s : State) (p : Fin 7) : (s.withSeq p).width = s.width := rfl
@[simp] theorem State.withSeq_mode (s : State) (p : Fin 7) : (s.withSeq p).mode = s.mode := rfl
@[simp] theorem State.withSeq_cmd (s : State) (p : Fin 7) : (s.withSeq p).cmd = s.cmd := rfl
@[simp] theorem State.withSeq_act (s : State) (p : Fin 7) : (s.withSeq p).act = s.act := rfl
@[simp] theorem State.withSeq_seq (s : State) (p : Fin 7) : (s.withSeq p).seq = p := rfl
@[simp] theorem State.withSeq_rx (s : State) (p : Fin 7) : (s.withSeq p).rx = s.rx := rfl
@[simp] theorem State.withSeq_ind (s : State) (p : Fin 7) : (s.withSeq p).ind = s.ind := rfl
@[simp] theorem State.withSeq_bcn (s : State) (p : Fin 7) : (s.withSeq p).bcn = s.bcn := rfl
@[simp] theorem State.withSeq_srn (s : State) (p : Fin 7) : (s.withSeq p).srn = s.srn := rfl
@[simp] theorem State.withSeq_cfg (s : State) (p : Fin 7) : (s.withSeq p).cfg = s.cfg := rfl
@[simp] theorem State.withSeq_trace (s : State) (p : Fin 7) : (s.withSeq p).trace = s.trace := rfl
@[simp] theorem State.withSeq_results (s : State) (p : Fin 7) : (s.withSeq p).results = s.results := rfl

@[simp] theorem State.withRx_now (s : State) (r : Receiver) : (s.withRx r).now = s.now := rfl
@[simp] theorem State.withRx_start (s : State) (r : Receiver) : (s.withRx r).start = s.start := rfl
@[simp] theorem State.withRx_armed (s : State) (r : Receiver) : (s.withRx r).armed = s.armed := rfl
@[simp] theorem State.withRx_width (s : State) (r : Receiver) : (s.withRx r).width = s.width := rfl
@[simp] theorem State.withRx_mode (s : State) (r : Receiver) : (s.withRx r).mode = s.mode := rfl
@[simp] theorem State.withRx_cmd (s : State) (r : Receiver) : (s.withRx r).cmd = s.cmd := rfl
@[simp] theorem State.withRx_act (s : State) (r : Receiver) : (s.withRx r).act = s.act := rfl
@[simp] theorem State.withRx_seq (s : State) (r : Receiver) : (s.withRx r).seq = s.seq := rfl
@[simp] theorem State.withRx_rx (s : State) (r : Receiver) : (s.withRx r).rx = r := rfl
@[simp] theorem State.withRx_ind (s : State) (r : Receiver) : (s.withRx r).ind = s.ind := rfl
@[simp] theorem State.withRx_bcn (s : State) (r : Receiver) : (s.withRx r).bcn = s.bcn := rfl
@[simp] theorem State.withRx_srn (s : State) (r : Receiver) : (s.withRx r).srn = s.srn := rfl
@[simp] theorem State.withRx_cfg (s : State) (r : Receiver) : (s.withRx r).cfg = s.cfg := rfl
@[simp] theorem State.withRx_trace (s : State) (r : Receiver) : (s.withRx r).trace = s.trace := rfl
@[simp] theorem State.withRx_results (s : State) (r : Receiver) : (s.withRx r).results = s.results := rfl

@[simp] theorem State.withInd_now (s : State) (i : Indicators) : (s.withInd i).now = s.now := rfl
@[simp] theorem State.withInd_start (s : State) (i : Indicators) : (s.withInd i).start = s.start := rfl
@[simp] theorem State.withInd_armed (s : State) (i : Indicators) : (s.withInd i).armed = s.armed := rfl
@[simp] theorem State.withInd_width (s : State) (i : Indicators) : (s.withInd i).width = s.width := rfl
@[simp] theorem State.withInd_mode (s : State) (i : Indicators) : (s.withInd i).mode = s.mode := rfl
@[simp] theorem State.withInd_cmd (s : State) (i : Indicators) : (s.withInd i).cmd = s.cmd := rfl
@[simp] theorem State.withInd_act (s : State) (i : Indicators) : (s.withInd i).act = s.act := rfl
@[simp] theorem State.withInd_seq (s : State) (i : Indicators) : (s.withInd i).seq = s.seq := rfl
@[simp] theorem State.withInd_rx (s : State) (i : Indicators) : (s.withInd i).rx = s.rx := rfl
@[simp] theorem State.withInd_ind (s : State) (i : Indicators) : (s.withInd i).ind = i := rfl
@[simp] theorem State.withInd_bcn (s : State) (i : Indicators) : (s.withInd i).bcn = s.bcn := rfl
@[simp] theorem State.withInd_srn (s : State) (i : Indicators) : (s.withInd i).srn = s.srn := rfl
@[simp] theorem State.withInd_cfg (s : State) (i : Indicators) : (s.withInd i).cfg = s.cfg := rfl
@[simp] theorem State.withInd_trace (s : State) (i : Indicators) : (s.withInd i).trace = s.trace := rfl
@[simp] theorem State.withInd_results (s : State) (i : Indicators) : (s.withInd i).results = s.results := rfl

@[simp] theorem State.withBcn_now (s : State) (b : Beacon) : (s.withBcn b).now = s.now := rfl
@[simp] theorem State.withBcn_start (s : State) (b : Beacon) : (s.withBcn b).start = s.start := rfl
@[simp] theorem State.withBcn_armed (s : State) (b : Beacon) : (s.withBcn b).armed = s.armed := rfl
@[simp] theorem State.withBcn_width (s : State) (b : Beacon) : (s.withBcn b).width = s.width := rfl
@[simp] theorem State.withBcn_mode (s : State) (b : Beacon) : (s.withBcn b).mode = s.mode := rfl
@[simp] theorem State.withBcn_cmd (s : State) (b : Beacon) : (s.withBcn b).cmd = s.cmd := rfl
@[simp] theorem State.withBcn_act (s : State) (b : Beacon) : (s.withBcn b).act = s.act := rfl
@[simp] theorem State.withBcn_seq (s : State) (b : Beacon) : (s.withBcn b).seq = s.seq := rfl
@[simp] theorem State.withBcn_rx (s : State) (b : Beacon) : (s.withBcn b).rx = s.rx := rfl
@[simp] theorem State.withBcn_ind (s : State) (b : Beacon) : (s.withBcn b).ind = s.ind := rfl
@[simp] theorem State.withBcn_bcn (s : State) (b : Beacon) : (s.withBcn b).bcn = b := rfl
@[simp] theorem State.withBcn_srn (s : State) (b : Beacon) : (s.withBcn b).srn = s.srn := rfl
@[simp] theorem State.withBcn_cfg (s : State) (b : Beacon) : (s.withBcn b).cfg = s.cfg := rfl
@[simp] theorem State.withBcn_trace (s : State) (b : Beacon) : (s.withBcn b).trace = s.trace := rfl
@[simp] theorem State.withBcn_results (s : State) (b : Beacon) : (s.withBcn b).results = s.results := rfl

@[simp] theorem State.withSrn_now (s : State) (f : Siren) : (s.withSrn f).now = s.now := rfl
@[simp] theorem State.withSrn_start (s : State) (f : Siren) : (s.withSrn f).start = s.start := rfl
@[simp] theorem State.withSrn_armed (s : State) (f : Siren) : (s.withSrn f).armed = s.armed := rfl
@[simp] theorem State.withSrn_width (s : State) (f : Siren) : (s.withSrn f).width = s.width := rfl
@[simp] theorem State.withSrn_mode (s : State) (f : Siren) : (s.withSrn f).mode = s.mode := rfl
@[simp] theorem State.withSrn_cmd (s : State) (f : Siren) : (s.withSrn f).cmd = s.cmd := rfl
@[simp] theorem State.withSrn_act (s : State) (f : Siren) : (s.withSrn f).act = s.act := rfl
@[simp] theorem State.withSrn_seq (s : State) (f : Siren) : (s.withSrn f).seq = s.seq := rfl
@[simp] theorem State.withSrn_rx (s : State) (f : Siren) : (s.withSrn f).rx = s.rx := rfl
@[simp] theorem State.withSrn_ind (s : State) (f : Siren) : (s.withSrn f).ind = s.ind := rfl
@[simp] theorem State.withSrn_bcn (s : State) (f : Siren) : (s.withSrn f).bcn = s.bcn := rfl
@[simp] theorem State.withSrn_srn (s : State) (f : Siren) : (s.withSrn f).srn = f := rfl
@[simp] theorem State.withSrn_cfg (s : State) (f : Siren) : (s.withSrn f).cfg = s.cfg := rfl
@[simp] theorem State.withSrn_trace (s : State) (f : Siren) : (s.withSrn f).trace = s.trace := rfl
@[simp] theorem State.withSrn_results (s : State) (f : Siren) : (s.withSrn f).results = s.results := rfl

@[simp] theorem State.giveResult_now (s : State) (r : Result) : (s.giveResult r).now = s.now := rfl
@[simp] theorem State.giveResult_start (s : State) (r : Result) : (s.giveResult r).start = s.start := rfl
@[simp] theorem State.giveResult_armed (s : State) (r : Result) : (s.giveResult r).armed = s.armed := rfl
@[simp] theorem State.giveResult_width (s : State) (r : Result) : (s.giveResult r).width = s.width := rfl
@[simp] theorem State.giveResult_mode (s : State) (r : Result) : (s.giveResult r).mode = s.mode := rfl
@[simp] theorem State.giveResult_cmd (s : State) (r : Result) : (s.giveResult r).cmd = s.cmd := rfl
@[simp] theorem State.giveResult_act (s : State) (r : Result) : (s.giveResult r).act = s.act := rfl
@[simp] theorem State.giveResult_seq (s : State) (r : Result) : (s.giveResult r).seq = s.seq := rfl
@[simp] theorem State.giveResult_rx (s : State) (r : Result) : (s.giveResult r).rx = s.rx := rfl
@[simp] theorem State.giveResult_ind (s : State) (r : Result) : (s.giveResult r).ind = s.ind := rfl
@[simp] theorem State.giveResult_bcn (s : State) (r : Result) : (s.giveResult r).bcn = s.bcn := rfl
@[simp] theorem State.giveResult_srn (s : State) (r : Result) : (s.giveResult r).srn = s.srn := rfl
@[simp] theorem State.giveResult_cfg (s : State) (r : Result) : (s.giveResult r).cfg = s.cfg := rfl
@[simp] theorem State.giveResult_trace (s : State) (r : Result) : (s.giveResult r).trace = s.trace := rfl
@[simp] theorem State.giveResult_results (s : State) (r : Result) : (s.giveResult r).results = s.results ++ [r] := rfl

end Sys2Proof.Machine
end

