-- ==== Sys2Proof/Laws/Operands.lean ====
section
/-! SUPPORT. The value functions: clamps, elapsed time, the band table, the policy. -/

namespace Sys2Proof.Machine

/-- A clamp lies within its bounds (R102). -/
theorem clamp_range (v : Word) {lo hi : Word} (h : lo ≤ hi) : lo ≤ clamp v lo hi ∧ clamp v lo hi ≤ hi := by
  unfold clamp
  split
  · exact ⟨BitVec.le_refl _, h⟩
  · split
    · exact ⟨h, BitVec.le_refl _⟩
    · rename_i h₁ h₂
      exact ⟨BitVec.not_lt.mp h₁, BitVec.not_lt.mp h₂⟩

/-- Inside its bounds a clamp changes nothing (R102). -/
theorem clamp_inside {v lo hi : Word} (h₁ : lo ≤ v) (h₂ : v ≤ hi) : clamp v lo hi = v := by
  simp [clamp, BitVec.not_lt.mpr h₁, BitVec.not_lt.mpr h₂]

theorem clampInt_range (v : Int) {lo hi : Int} (h : lo ≤ hi) : lo ≤ clampInt v lo hi ∧ clampInt v lo hi ≤ hi := by
  unfold clampInt
  split <;> [skip; split] <;> omega

theorem clampInt_eq_max_min (v : Int) {lo hi : Int} (h : lo ≤ hi) : clampInt v lo hi = max lo (min hi v) := by
  unfold clampInt
  split <;> [skip; split] <;> omega

/-- The elapsed time as a number: modulo 2^32, whatever the order of the two stamps (R84). -/
theorem elapsed_toNat (now t : Word) : (elapsed now t).toNat = (now.toNat + 2 ^ 32 - t.toNat) % 2 ^ 32 := by
  rw [elapsed, BitVec.toNat_sub]
  congr 1
  have := t.isLt
  omega

/-- The steering value of bands 1 and 2 is what the clamp gives, as a number. -/
theorem proportionalSteer_toNat (d : Int) :
    ((proportionalSteer d).toNat : Int) = clampInt (1500 - 40 * d) 1400 1600 := by
  have h := clampInt_range (1500 - 40 * d) (lo := 1400) (hi := 1600) (by omega)
  rw [proportionalSteer, BitVec.toNat_ofInt]
  omega

/-- Everything the band table can answer (R116). -/
theorem mapDev_cases (d : Int) :
    (0 < d ∧ d < 40 ∧ mapDev d = some (proportionalSteer d, 1560)) ∨
    (-40 < d ∧ d < 0 ∧ mapDev d = some (proportionalSteer d, 1560)) ∨
    (40 ≤ d ∧ d < 80 ∧ mapDev d = some (1000, 1550)) ∨
    (-80 < d ∧ d ≤ -40 ∧ mapDev d = some (2000, 1550)) ∨
    (80 ≤ d ∧ d < 100 ∧ mapDev d = some (1800, 1440)) ∨
    (-100 < d ∧ d ≤ -80 ∧ mapDev d = some (1200, 1440)) ∨
    (100 ≤ d ∧ mapDev d = some (1800, 1430)) ∨
    (d ≤ -100 ∧ mapDev d = some (1200, 1430)) ∨
    (d = 0 ∧ mapDev d = none) := by
  unfold mapDev
  repeat' split
  all_goals simp only [reduceCtorEq, and_false, or_false, false_or, and_true, Option.some.injEq, Prod.mk.injEq]
  all_goals omega

/-- What the policy leaves in `cmd` after `Deviation(d)`: a band's pair, or what R119 says of band 9. -/
theorem policyDeviation_cases (cfg : Config) (d : Word) (c : Command) :
    (∃ steer throttle, mapDev d.toInt = some (steer, throttle) ∧
      policyDeviation cfg d c = { steer := steer, throttle := throttle, issue := true, ind := .run }) ∨
    (mapDev d.toInt = none ∧ policyDeviation cfg d c = deviationZero cfg c) := by
  unfold policyDeviation
  cases h : mapDev d.toInt with
  | none => exact .inr ⟨rfl, rfl⟩
  | some p => exact .inl ⟨p.1, p.2, rfl, rfl⟩

end Sys2Proof.Machine
end

