-- ==== Sys2Proof/Laws/Controllers.lean ====
section
/-! SUPPORT. Everything the commit, the policy and the three controllers can do. -/

namespace Sys2Proof.Machine

/-- Everything `ACTWR` can do to the output registers (R141): the latch's pair, or nothing. -/
theorem commit_act_cases (s : State) :
    (s.cmd.issue = true ∧ (commit s).act = ⟨s.cmd.steer, s.cmd.throttle⟩) ∨
    (s.cmd.issue = false ∧ (commit s).act = s.act) := by
  cases h : s.cmd.issue <;> simp [commit, h]

/-- The inhibit after `ACTWR`, and every other part of the indicator state kept (R141). -/
theorem commit_ind (s : State) :
    (commit s).ind = { s.ind with inhibit := inhibitAfter s.cmd.ind s.ind.inhibit } := rfl

/-- `MANT` then `MANS` leave the pair of `map_manual` (R108), in either order (R105). -/
theorem manual_halves_eq_mapManual (s : State) :
    ((manualSteer (manualThrottle s)).cmd.steer, (manualSteer (manualThrottle s)).cmd.throttle) =
      mapManual s.cfg (s.readWidth .thr) (s.readWidth .steer) ∧
    manualSteer (manualThrottle s) = manualThrottle (manualSteer s) := ⟨rfl, rfl⟩

/-- The code of `cmd.ind` is read back (R65, R141). -/
theorem indRequestOfCode_code (r : IndRequest) : indRequestOfCode r.code = r := by
  cases r <;> decide

/-- What the policy leaves, by what was parsed (R115, R118 to R121). -/
theorem policy_cases (cfg : Config) (p : ParsedCommand) (c : Command) :
    (∃ d, p = .deviation d ∧ policy cfg p c = policyDeviation cfg d c) ∨
    (p = .stopOrStraight ∧ policy cfg p c = policyStop cfg) ∨
    (p = .unrecognized ∧ policy cfg p c = policyUnrecognized c) := by
  cases p with
  | deviation d => exact .inl ⟨d, rfl, rfl⟩
  | stopOrStraight => exact .inr (.inl ⟨rfl, rfl⟩)
  | unrecognized => exact .inr (.inr ⟨rfl, rfl⟩)

/-- Everything the scheduler can do (R178), its predicates unresolved. -/
theorem Indicators.advance_cases (a : Actuators) (now : Word) (i : Indicators) :
    (i.inhibit = true ∧ i.advance a now = { i with left := false, right := false }) ∨
    (i.inhibit = false ∧ reversing a = true ∧ i.advance a now = { i with left := true, right := true }) ∨
    (i.inhibit = false ∧ turningLeft a = true ∧ due now i.tL Config.tBlink = true ∧
      i.advance a now = { i with right := false, left := !i.left, tL := now }) ∨
    (i.inhibit = false ∧ turningLeft a = true ∧ due now i.tL Config.tBlink = false ∧
      i.advance a now = { i with right := false }) ∨
    (i.inhibit = false ∧ turningRight a = true ∧ due now i.tR Config.tBlink = true ∧
      i.advance a now = { i with left := false, right := !i.right, tR := now }) ∨
    (i.inhibit = false ∧ turningRight a = true ∧ due now i.tR Config.tBlink = false ∧
      i.advance a now = { i with left := false }) ∨
    (i.inhibit = false ∧ reversing a = false ∧ turningLeft a = false ∧ turningRight a = false ∧
      i.advance a now = { i with left := false, right := false }) := by
  unfold Indicators.advance
  cases h₀ : i.inhibit <;> cases h₁ : reversing a <;> cases h₂ : turningLeft a <;> cases h₃ : turningRight a <;>
    cases h₄ : due now i.tL Config.tBlink <;> cases h₅ : due now i.tR Config.tBlink <;> simp

/-- The scheduler never changes the inhibit (R26). -/
@[simp] theorem Indicators.advance_inhibit (a : Actuators) (now : Word) (i : Indicators) :
    (i.advance a now).inhibit = i.inhibit := by
  rcases i.advance_cases a now with ⟨_, h⟩ | ⟨_, _, h⟩ | ⟨_, _, _, h⟩ | ⟨_, _, _, h⟩ | ⟨_, _, _, h⟩ | ⟨_, _, _, h⟩ |
    ⟨_, _, _, _, h⟩ <;> rw [h]

/-- Everything the beacon controller can do (R181). -/
theorem Beacon.advance_cases (w now : Word) (b : Beacon) :
    (beaconActive w = false ∧ b.advance w now = { b with red := false, blue := false, third := false }) ∨
    (beaconActive w = true ∧ ∃ phase tB,
      (due now b.tB Config.tBeacon = true ∧ phase = b.phase.toggle ∧ tB = now ∨
        due now b.tB Config.tBeacon = false ∧ phase = b.phase ∧ tB = b.tB) ∧
      (phase = .colourA ∧ b.advance w now = ⟨phase, true, false, false, tB⟩ ∨
        phase = .colourB ∧ b.advance w now = ⟨phase, false, true, false, tB⟩)) := by
  unfold Beacon.advance
  cases h₀ : beaconActive w
  · simp
  · right
    refine ⟨rfl, ?_⟩
    simp only [Beacon.light]
    cases h₁ : due now b.tB Config.tBeacon
    · exact ⟨b.phase, b.tB, .inr ⟨rfl, rfl, rfl⟩, by cases b.phase <;> simp⟩
    · exact ⟨b.phase.toggle, now, .inl ⟨rfl, rfl, rfl⟩, by cases b.phase <;> simp [BeaconPhase.toggle]⟩

/-- Everything the siren controller can do (R182). -/
theorem Siren.advance_cases (w now : Word) (f : Siren) :
    (sirenActive w = false ∧ f.advance w now = { f with on := false }) ∨
    (sirenActive w = true ∧ due now f.tS Config.tSiren = false ∧ f.advance w now = { f with on := true }) ∨
    (sirenActive w = true ∧ due now f.tS Config.tSiren = true ∧ f.dir = .up ∧
      f.advance w now = ⟨true, if Config.sirenFHi ≤ f.freq + 10 then .down else .up, f.freq + 10, now⟩) ∨
    (sirenActive w = true ∧ due now f.tS Config.tSiren = true ∧ f.dir = .down ∧
      f.advance w now = ⟨true, if f.freq - 10 ≤ Config.sirenFLo then .up else .down, f.freq - 10, now⟩) := by
  unfold Siren.advance Siren.sweep
  cases h₀ : sirenActive w
  · simp
  · cases h₁ : due now f.tS Config.tSiren
    · simp [h₁]
    · cases h₂ : f.dir
      · simp only [h₁, Config.sirenFStep]
        simp
        rfl
      · simp [h₁, Config.sirenFStep]

end Sys2Proof.Machine
end

