-- ==== Sys2Proof/Laws/Text.lean ====
section
/-! SUPPORT. The text of a command line: what `trim`, `readDigits`, `readSigned` and `recognise` answer. -/

namespace Sys2Proof

/-! ### White space -/

/-- Dropping from the front stops at the first byte that is no white space. -/
theorem dropWhile_isSpace_append {pre rest : List Byte} (hpre : pre.all isSpace = true)
    (hrest : ∀ b ∈ rest.head?, isSpace b = false) : (pre ++ rest).dropWhile isSpace = rest := by
  induction pre with
  | nil =>
    cases rest with
    | nil => rfl
    | cons b bs => simp [hrest b (by simp)]
  | cons b bs ih =>
    simp only [List.all_cons, Bool.and_eq_true] at hpre
    simp [hpre.1, ih hpre.2]

/-- Taking from the front stops at the first byte that is no white space. -/
theorem takeWhile_isSpace_append {pre rest : List Byte} (hpre : pre.all isSpace = true)
    (hrest : ∀ b ∈ rest.head?, isSpace b = false) : (pre ++ rest).takeWhile isSpace = pre := by
  induction pre with
  | nil =>
    cases rest with
    | nil => rfl
    | cons b bs => simp [hrest b (by simp)]
  | cons b bs ih =>
    simp only [List.all_cons, Bool.and_eq_true] at hpre
    simp [hpre.1, ih hpre.2]

/-- `trim` leaves a text that begins and ends with no white space (R175). -/
theorem trim_padded {pre core post : List Byte} (hpre : pre.all isSpace = true) (hpost : post.all isSpace = true)
    (hne : core ≠ []) (hhead : ∀ b ∈ core.head?, isSpace b = false) (hlast : ∀ b ∈ core.getLast?, isSpace b = false) :
    trim (pre ++ core ++ post) = core := by
  have hfront : (pre ++ (core ++ post)).dropWhile isSpace = core ++ post := by
    apply dropWhile_isSpace_append hpre
    intro b hb
    obtain ⟨c, cs, rfl⟩ := List.exists_cons_of_ne_nil hne
    exact hhead b (by simpa using hb)
  have hback : (post.reverse ++ core.reverse).dropWhile isSpace = core.reverse := by
    apply dropWhile_isSpace_append (by simpa using hpost)
    intro b hb
    exact hlast b (by simpa using hb)
  rw [trim, List.append_assoc, hfront, List.reverse_append, hback, List.reverse_reverse]

/-! ### Digits -/

@[simp] theorem digitOf_digitByte (d : Fin 10) : digitOf (digitByte d) = some d := by
  revert d
  decide

/-- A digit is the byte of its value. -/
theorem digitByte_of_digitOf {b : Byte} {d : Fin 10} (h : digitOf b = some d) : digitByte d = b := by
  unfold digitOf at h
  split at h
  · cases h
    apply BitVec.eq_of_toNat_eq
    simp only [digitByte, BitVec.toNat_ofNat]
    omega
  · cases h

theorem digitByte_toNat (d : Fin 10) : (digitByte d).toNat = 0x30 + d.val := by
  revert d
  decide

/-- A digit is no white space, no sign, and not `D`, `S` or `N`. -/
theorem isSpace_digitByte (d : Fin 10) : isSpace (digitByte d) = false := by
  revert d
  decide

theorem digitByte_ne_minus (d : Fin 10) : digitByte d ≠ chMinus := by
  revert d
  decide

theorem digitByte_ne_plus (d : Fin 10) : digitByte d ≠ chPlus := by
  revert d
  decide

theorem digitByte_ne_lineTerm (d : Fin 10) : digitByte d ≠ lineTerm := by
  revert d
  decide

@[simp] theorem readDigits_map (ds : List (Fin 10)) : readDigits (ds.map digitByte) = some ds := by
  induction ds with
  | nil => rfl
  | cons d ds ih => simp [readDigits, ih]

/-- What is read as digits is those digits' bytes. -/
theorem eq_map_of_readDigits {bs : List Byte} {ds : List (Fin 10)} (h : readDigits bs = some ds) :
    bs = ds.map digitByte := by
  induction bs generalizing ds with
  | nil =>
    simp only [readDigits, Option.some.injEq] at h
    simp [← h]
  | cons b bs ih =>
    simp only [readDigits] at h
    split at h
    · rename_i d ds' hd hds
      cases h
      simp [digitByte_of_digitOf hd, ← ih hds]
    · cases h

/-- The bytes of a signed integer are read back (R70). -/
theorem readSigned_bytes (sign : Option Sign) {ds : List (Fin 10)} (hne : ds ≠ []) :
    readSigned (signBytes sign ++ ds.map digitByte) = some (sign, ds) := by
  obtain ⟨d, ds, rfl⟩ := List.exists_cons_of_ne_nil hne
  have hread : readNonEmptyDigits ((d :: ds).map digitByte) = some (d :: ds) := by
    rw [readNonEmptyDigits, if_neg (by simp), readDigits_map]
  rw [List.map_cons] at hread ⊢
  cases sign with
  | none =>
    simp only [signBytes, List.nil_append, readSigned, digitByte_ne_minus, digitByte_ne_plus, if_false]
    simpa using congrArg (Option.map fun ds => ((none : Option Sign), ds)) hread
  | some sg =>
    cases sg with
    | plus =>
      have : chPlus ≠ chMinus := by decide
      simp only [signBytes, List.singleton_append, readSigned, this, if_false, if_true]
      simp [hread]
    | minus =>
      simp only [signBytes, List.singleton_append, readSigned, if_true]
      simp [hread]

/-- What is read as a signed integer is its sign and its digits, of which there is at least one. -/
theorem eq_bytes_of_readSigned {bs : List Byte} {sign : Option Sign} {ds : List (Fin 10)}
    (h : readSigned bs = some (sign, ds)) : ds ≠ [] ∧ bs = signBytes sign ++ ds.map digitByte := by
  have digits : ∀ {cs : List Byte} {es : List (Fin 10)}, readNonEmptyDigits cs = some es →
      es ≠ [] ∧ cs = es.map digitByte := by
    intro cs es hcs
    unfold readNonEmptyDigits at hcs
    split at hcs
    · cases hcs
    · rename_i hne
      have := eq_map_of_readDigits hcs
      exact ⟨by rintro rfl; exact hne (by simpa using this), this⟩
  cases bs with
  | nil => simp [readSigned] at h
  | cons b bs =>
    simp only [readSigned] at h
    split at h
    · rename_i hb
      obtain ⟨es, hes, heq⟩ := Option.map_eq_some_iff.mp h
      cases heq
      exact ⟨(digits hes).1, by simp [signBytes, hb, ← (digits hes).2]⟩
    · split at h
      · rename_i hb
        obtain ⟨es, hes, heq⟩ := Option.map_eq_some_iff.mp h
        cases heq
        exact ⟨(digits hes).1, by simp [signBytes, hb, ← (digits hes).2]⟩
      · obtain ⟨es, hes, heq⟩ := Option.map_eq_some_iff.mp h
        cases heq
        exact ⟨(digits hes).1, by simpa [signBytes] using (digits hes).2⟩

/-! ### The recognised forms (R69) -/

theorem recognise_S : recognise [chS] = .stop := by decide

theorem recognise_N : recognise [chN] = .straight := by decide

theorem recognise_deviationText {sign : Option Sign} {ds : List (Fin 10)} (hne : ds ≠ [])
    (hrange : inI32 (signedValue sign ds) = true) : recognise (deviationText sign ds) = .deviation sign ds := by
  have hS : ¬ (chD :: chColon :: (signBytes sign ++ ds.map digitByte) = [chS]) := by simp
  have hN : ¬ (chD :: chColon :: (signBytes sign ++ ds.map digitByte) = [chN]) := by simp
  simp only [recognise, deviationText, hS, hN, if_false, and_self, if_true, readSigned_bytes sign hne, hrange]

/-- Everything `recognise` can answer, with the text it answers it on. -/
theorem recognise_cases (core : List Byte) :
    (core = [chS] ∧ recognise core = .stop) ∨ (core = [chN] ∧ recognise core = .straight) ∨
    (∃ sign ds, ds ≠ [] ∧ inI32 (signedValue sign ds) = true ∧ core = deviationText sign ds ∧
      recognise core = .deviation sign ds) ∨
    recognise core = .other := by
  by_cases hS : core = [chS]
  · exact .inl ⟨hS, by rw [hS]; exact recognise_S⟩
  by_cases hN : core = [chN]
  · exact .inr (.inl ⟨hN, by rw [hN]; exact recognise_N⟩)
  refine .inr (.inr ?_)
  simp only [recognise, hS, hN, if_false]
  split
  · rename_i c₀ c₁ rest
    split
    · rename_i hc
      split
      · rename_i sign ds hread
        split
        · rename_i hrange
          obtain ⟨hne, hrest⟩ := eq_bytes_of_readSigned hread
          exact .inl ⟨sign, ds, hne, hrange, by simp [deviationText, hc.1, hc.2, hrest], rfl⟩
        · exact .inr rfl
      · exact .inr rfl
    · exact .inr rfl
  · exact .inr rfl

/-- Adding a leading digit adds its place value; the induction behind R75. -/
theorem decimal_foldl (ds : List (Fin 10)) (acc : Nat) :
    ds.foldl (fun a d => 10 * a + d.val) acc = acc * 10 ^ ds.length + decimal ds := by
  induction ds generalizing acc with
  | nil => simp [decimal]
  | cons d ds ih =>
    simp only [List.foldl_cons, List.length_cons, decimal]
    rw [ih, ih (10 * 0 + d.val)]
    ring

end Sys2Proof
end

