-- ==== Sys2Proof/Laws/Descriptor.lean ====
section
/-! SUPPORT. The fields of a descriptor, and what each decoding helper answers. -/

namespace Sys2Proof

@[simp] theorem opField_descriptor (op arg : Byte) (imm : Word) : opField (descriptor op arg imm) = op := by
  ext i hi
  simp only [opField, descriptor, BitVec.getElem_extractLsb', BitVec.getLsbD_append]
  rw [if_neg (by omega), if_neg (by omega)]
  simp [show 40 + i - 32 - 8 = i by omega, BitVec.getLsbD_eq_getElem hi]

@[simp] theorem argField_descriptor (op arg : Byte) (imm : Word) : argField (descriptor op arg imm) = arg := by
  ext i hi
  simp only [argField, descriptor, BitVec.getElem_extractLsb', BitVec.getLsbD_append]
  rw [if_neg (by omega), if_pos (by omega)]
  simp [BitVec.getLsbD_eq_getElem hi]

@[simp] theorem immField_descriptor (op arg : Byte) (imm : Word) : immField (descriptor op arg imm) = imm := by
  ext i hi
  simp only [immField, descriptor, BitVec.getElem_extractLsb', BitVec.getLsbD_append]
  rw [if_pos (by omega)]
  simp [BitVec.getLsbD_eq_getElem hi]

/-- A descriptor is its three fields (R61). -/
theorem descriptor_fields (w : BitVec 48) : descriptor (opField w) (argField w) (immField w) = w := by
  ext i hi
  simp only [opField, argField, immField, descriptor, BitVec.getElem_eq_testBit_toNat]
  rw [BitVec.testBit_toNat, BitVec.testBit_toNat]
  simp only [BitVec.getLsbD_append, BitVec.getLsbD_extractLsb']
  by_cases h₁ : i < 32
  · simp [h₁]
  · by_cases h₂ : i - 32 < 8
    · simp [h₁, h₂, show 32 + (i - 32) = i by omega]
    · simp [h₁, h₂, show i - 32 - 8 < 8 by omega, show 40 + (i - 32 - 8) = i by omega]

/-- A descriptor's fields as one number (R61). -/
theorem descriptor_toNat (op arg : Byte) (imm : Word) :
    (descriptor op arg imm).toNat = op.toNat * 2 ^ 40 + arg.toNat * 2 ^ 32 + imm.toNat := by
  rw [descriptor, BitVec.toNat_append, BitVec.toNat_append, ← Nat.shiftLeft_add_eq_or_of_lt imm.isLt,
    ← Nat.shiftLeft_add_eq_or_of_lt arg.isLt, Nat.shiftLeft_eq, Nat.shiftLeft_eq]
  omega

/-- Stored bytes are read back as the descriptor they store (R61). -/
@[simp] theorem descriptorOfBytes_descriptorBytes (w : BitVec 48) :
    descriptorOfBytes (descriptorBytes w) = some w := by
  simp only [descriptorOfBytes, descriptorBytes, Option.some.injEq]
  ext i hi
  simp only [BitVec.getElem_eq_testBit_toNat]
  rw [BitVec.testBit_toNat, BitVec.testBit_toNat]
  simp only [BitVec.getLsbD_append, BitVec.getLsbD_extractLsb']
  by_cases h₁ : i < 8
  · simp [h₁]
  by_cases h₂ : i - 8 < 8
  · simp [h₁, h₂, show 8 + (i - 8) = i by omega]
  by_cases h₃ : i - 8 - 8 < 8
  · simp [h₁, h₂, h₃, show 16 + (i - 8 - 8) = i by omega]
  by_cases h₄ : i - 8 - 8 - 8 < 8
  · simp [h₁, h₂, h₃, h₄, show 24 + (i - 8 - 8 - 8) = i by omega]
  by_cases h₅ : i - 8 - 8 - 8 - 8 < 8
  · simp [h₁, h₂, h₃, h₄, h₅, show 32 + (i - 8 - 8 - 8 - 8) = i by omega]
  · simp [h₁, h₂, h₃, h₄, h₅, show i - 8 - 8 - 8 - 8 - 8 < 8 by omega,
      show 40 + (i - 8 - 8 - 8 - 8 - 8) = i by omega]

/-! ### The decoding helpers: when they answer an operation, and which -/

theorem decodePlain_eq_ok {i j : Instr} {arg : Byte} {imm : Word} :
    decodePlain i arg imm = .ok j ↔ arg = 0 ∧ imm = 0 ∧ j = i := by
  unfold decodePlain
  by_cases h₁ : arg = 0#8
  · by_cases h₂ : imm = 0#32
    · simp [h₁, h₂, eq_comm (a := j)]
    · simp [h₁, h₂]
  · simp [h₁]

theorem decodeImm_eq_ok {mk : Word → Instr} {j : Instr} {arg : Byte} {imm : Word} :
    decodeImm mk arg imm = .ok j ↔ arg = 0 ∧ j = mk imm := by
  unfold decodeImm
  by_cases h : arg = 0#8
  · simp [h, eq_comm (a := j)]
  · simp [h]

theorem decodeByte_eq_ok {j : Instr} {arg : Byte} {imm : Word} :
    decodeByte arg imm = .ok j ↔ arg = 0 ∧ imm.toNat < 256 ∧ j = .byte (imm.extractLsb' 0 8) := by
  have high : imm.extractLsb' 8 24 = 0 ↔ imm.toNat < 256 := by
    rw [← BitVec.toNat_inj]
    simp only [BitVec.extractLsb'_toNat, Nat.shiftRight_eq_div_pow]
    have := imm.isLt
    constructor
    · intro h
      have h : imm.toNat / 2 ^ 8 % 2 ^ 24 = 0 := by simpa using h
      omega
    · intro h
      have : imm.toNat / 2 ^ 8 % 2 ^ 24 = 0 := by omega
      simpa using this
  unfold decodeByte
  split
  · simp_all
  · split
    · rename_i h₁ h₂
      simp only [reduceCtorEq, false_iff, not_and]
      intro _ h
      exact absurd (high.mpr h) h₂
    · rename_i h₁ h₂
      simp only [ne_eq, not_not] at h₁ h₂
      simp [h₁, high.mp h₂, eq_comm (a := j)]

theorem arg_high_eq_zero {arg : Byte} : arg.extractLsb' 3 5 = 0 ↔ arg.toNat < 8 := by
  revert arg
  decide

theorem decodeChannel_eq_ok {mk : Channel → Except DecodeError Instr} {j : Instr} {arg : Byte} {imm : Word} :
    decodeChannel mk arg imm = .ok j ↔ imm = 0 ∧ ∃ ch, arg = channelArg ch ∧ mk ch = .ok j := by
  unfold decodeChannel
  split
  · simp_all
  · rename_i h₁
    simp only [ne_eq, not_not] at h₁
    split
    · rename_i h₂
      simp only [reduceCtorEq, false_iff, not_and, not_exists]
      intro _ ch harg
      exfalso
      subst harg
      revert h₂
      cases ch <;> decide
    · split
      · rename_i ch hch
        have : arg = channelArg ch := by
          apply BitVec.eq_of_toNat_eq
          rw [channelOfIndex_eq_some.mp hch]
          have := channelIndex_lt ch
          simp only [channelArg, BitVec.toNat_ofNat]
          omega
        constructor
        · intro h
          exact ⟨h₁, ch, this, h⟩
        · rintro ⟨_, c, hc, h⟩
          have : channelArg ch = channelArg c := this ▸ hc
          have : ch = c := by revert this; cases ch <;> cases c <;> decide
          rw [this]; exact h
      · rename_i hnone
        simp only [reduceCtorEq, false_iff, not_and, not_exists]
        rintro _ ch rfl
        exfalso
        revert hnone
        cases ch <;> decide

theorem decodeHandler_eq_ok {present : BitVec 5} {mk : Channel → Instr} {ch : Channel} {j : Instr} :
    decodeHandler present mk ch = .ok j ↔ channelPresent present ch = true ∧ j = mk ch := by
  unfold decodeHandler
  by_cases h : channelPresent present ch = true
  · simp [h, eq_comm (a := j)]
  · simp [h]

end Sys2Proof
end

