-- ==== Sys2Proof/Laws/PerInstr.lean ====
section
/-! SUPPORT. One fact per operation about its encoding: a descriptor agrees with the `match` and `mask` of its row of
spec/opcode_table.json, a command line ends with the terminator. -/

namespace Sys2Proof.Laws

/-- A descriptor `w` agrees with a table row: `w` under `mask` is `pattern`. -/
abbrev fitsRow (pattern mask w : BitVec 48) : Prop := w &&& mask = pattern

/-- What the opcode table says of the packet of an operation. -/
def TableRow.Statement (i : Instr) : Prop :=
  match i, encode i with
  | .tick _, .opd w => fitsRow 0x010000000000 0xFFFF00000000 w
  | .rise _, .opd w => fitsRow 0x020000000000 0xFFF8FFFFFFFF w
  | .fall _, .opd w => fitsRow 0x030000000000 0xFFF8FFFFFFFF w
  | .read _, .opd w => fitsRow 0x040000000000 0xFFF8FFFFFFFF w
  | .mode, .opd w => fitsRow 0x050000000000 0xFFFFFFFFFFFF w
  | .mant, .opd w => fitsRow 0x060000000000 0xFFFFFFFFFFFF w
  | .mans, .opd w => fitsRow 0x070000000000 0xFFFFFFFFFFFF w
  | .mapdev _, .opd w => fitsRow 0x080000000000 0xFFFF00000000 w
  | .mapstop, .opd w => fitsRow 0x090000000000 0xFFFFFFFFFFFF w
  | .mapunr, .opd w => fitsRow 0x0A0000000000 0xFFFFFFFFFFFF w
  | .mapnone, .opd w => fitsRow 0x0B0000000000 0xFFFFFFFFFFFF w
  | .actwr, .opd w => fitsRow 0x0C0000000000 0xFFFFFFFFFFFF w
  | .frame, .opd w => fitsRow 0x0D0000000000 0xFFFFFFFFFFFF w
  | .step, .opd w => fitsRow 0x0E0000000000 0xFFFFFFFFFFFF w
  | .reset, .opd w => fitsRow 0x0F0000000000 0xFFFFFFFFFFFF w
  | .byte _, .opd w => fitsRow 0x100000000000 0xFFFFFFFFFF00 w
  | .take, .opd w => fitsRow 0x110000000000 0xFFFFFFFFFFFF w
  | .ind, .opd w => fitsRow 0x120000000000 0xFFFFFFFFFFFF w
  | .bcn, .opd w => fitsRow 0x130000000000 0xFFFFFFFFFFFF w
  | .srn, .opd w => fitsRow 0x140000000000 0xFFFFFFFFFFFF w
  | .lineS _ _, .line bytes => bytes.getLast? = some lineTerm
  | .lineN _ _, .line bytes => bytes.getLast? = some lineTerm
  | .lineD _ _ _ _, .line bytes => bytes.getLast? = some lineTerm
  | _, _ => False

/-- Under the mask of `op` and `arg` only those two are left. -/
theorem append_and_high (op : Byte) (imm : Word) :
    (op ++ (0 : Byte) ++ imm) &&& ((0xFF : Byte) ++ (0xFF : Byte) ++ (0 : Word)) = op ++ (0 : Byte) ++ (0 : Word) := by
  have hop : op &&& 0xFF = op := BitVec.and_allOnes
  rw [BitVec.and_append, BitVec.and_append, hop]
  simp

/-- An operation whose operand is the whole of `imm` leaves its row's bits alone. -/
theorem imm_fitsRow (op : Byte) (imm : Word) :
    fitsRow (descriptor op 0 0) (descriptor 0xFF 0xFF 0) (descriptor op 0 imm) := append_and_high op imm

theorem TableRow.tick (dt : Word) : TableRow.Statement (.tick dt) := imm_fitsRow 0x01 dt
theorem TableRow.rise (ch : Channel) : TableRow.Statement (.rise ch) := by
  cases ch <;> show fitsRow _ _ _ <;> decide
theorem TableRow.fall (ch : Channel) : TableRow.Statement (.fall ch) := by
  cases ch <;> show fitsRow _ _ _ <;> decide
theorem TableRow.read (ch : Channel) : TableRow.Statement (.read ch) := by
  cases ch <;> show fitsRow _ _ _ <;> decide
theorem TableRow.mode : TableRow.Statement .mode := by
  show fitsRow _ _ _
  decide
theorem TableRow.mant : TableRow.Statement .mant := by
  show fitsRow _ _ _
  decide
theorem TableRow.mans : TableRow.Statement .mans := by
  show fitsRow _ _ _
  decide
theorem TableRow.mapdev (d : Word) : TableRow.Statement (.mapdev d) := imm_fitsRow 0x08 d
theorem TableRow.mapstop : TableRow.Statement .mapstop := by
  show fitsRow _ _ _
  decide
theorem TableRow.mapunr : TableRow.Statement .mapunr := by
  show fitsRow _ _ _
  decide
theorem TableRow.mapnone : TableRow.Statement .mapnone := by
  show fitsRow _ _ _
  decide
theorem TableRow.actwr : TableRow.Statement .actwr := by
  show fitsRow _ _ _
  decide
theorem TableRow.frame : TableRow.Statement .frame := by
  show fitsRow _ _ _
  decide
theorem TableRow.step : TableRow.Statement .step := by
  show fitsRow _ _ _
  decide
theorem TableRow.reset : TableRow.Statement .reset := by
  show fitsRow _ _ _
  decide
theorem TableRow.byte (b : Byte) : TableRow.Statement (.byte b) := by
  show fitsRow _ _ _
  revert b
  decide
theorem TableRow.take : TableRow.Statement .take := by
  show fitsRow _ _ _
  decide
theorem TableRow.ind : TableRow.Statement .ind := by
  show fitsRow _ _ _
  decide
theorem TableRow.bcn : TableRow.Statement .bcn := by
  show fitsRow _ _ _
  decide
theorem TableRow.srn : TableRow.Statement .srn := by
  show fitsRow _ _ _
  decide
theorem TableRow.lineS (pre post : List Byte) : TableRow.Statement (.lineS pre post) :=
  List.getLast?_concat
theorem TableRow.lineN (pre post : List Byte) : TableRow.Statement (.lineN pre post) :=
  List.getLast?_concat
theorem TableRow.lineD (pre : List Byte) (sign : Option Sign) (digits : List (Fin 10)) (post : List Byte) :
    TableRow.Statement (.lineD pre sign digits post) :=
  List.getLast?_concat

end Sys2Proof.Laws
end

