-- ==== Sys2Proof/Laws/Receiver.lean ====
section
/-! SUPPORT. What the serial receiver holds after a byte and after a sequence of bytes. -/

namespace Sys2Proof.Machine

/-- Everything one byte can do (R171, R172). -/
theorem Receiver.accept_cases (cap : Nat) (r : Receiver) (b : Byte) :
    (b = lineTerm ∧ r.accept cap b = { r with complete := true }) ∨
    (b ≠ lineTerm ∧ r.buf.length < cap ∧ r.accept cap b = { r with buf := r.buf ++ [b] }) ∨
    (b ≠ lineTerm ∧ cap ≤ r.buf.length ∧ r.accept cap b = r) := by
  unfold Receiver.accept
  by_cases hb : b = lineTerm
  · simp [hb]
  · by_cases hc : r.buf.length < cap
    · simp [hb, hc]
    · simp [hb, hc, Nat.le_of_not_lt hc]

@[simp] theorem Receiver.acceptAll_nil (cap : Nat) (r : Receiver) : r.acceptAll cap [] = r := rfl

@[simp] theorem Receiver.acceptAll_cons (cap : Nat) (r : Receiver) (b : Byte) (bs : List Byte) :
    r.acceptAll cap (b :: bs) = (r.accept cap b).acceptAll cap bs := rfl

/-- A sequence of bytes: what fits of the bytes that are no terminator is appended, and a terminator among them marks
the line complete. -/
theorem Receiver.acceptAll_eq (cap : Nat) (bs : List Byte) (r : Receiver) :
    r.acceptAll cap bs =
      { buf := r.buf ++ (bs.filter (· ≠ lineTerm)).take (cap - r.buf.length)
        complete := r.complete || bs.any (· == lineTerm) } := by
  induction bs generalizing r with
  | nil => cases r; simp
  | cons b bs ih =>
    rw [Receiver.acceptAll_cons, ih]
    rcases Receiver.accept_cases cap r b with ⟨hb, h⟩ | ⟨hb, hc, h⟩ | ⟨hb, hc, h⟩
    · rw [h]
      simp [hb]
    · simp only [h, List.length_append, List.length_singleton, List.append_assoc]
      rw [List.filter_cons_of_pos (by simpa using hb), List.any_cons, beq_eq_false_iff_ne.mpr hb, Bool.false_or,
        show cap - r.buf.length = (cap - (r.buf.length + 1)) + 1 by omega, List.take_succ_cons]
      rfl
    · rw [h, List.filter_cons_of_pos (by simpa using hb), List.any_cons, beq_eq_false_iff_ne.mpr hb, Bool.false_or,
        show cap - r.buf.length = 0 by omega]
      simp

@[simp] theorem receiveLine_eq (bytes : List Byte) (s : State) :
    receiveLine bytes s = s.withRx (s.rx.acceptAll s.cfg.bufCap bytes) := rfl

end Sys2Proof.Machine
end

