-- ==== Sys2Proof/Laws/Step.lean ====
section
/-! SUPPORT. Everything a step can do, everything a phase can do, and sequences of operations. -/

namespace Sys2Proof.Machine

/-- Everything `step` can do with a next state: the front packet leaves the run, and it is an operation that has its
meaning, or another command line that is received. -/
theorem step_cases {s t : State} (h : step s = .next t) :
    ∃ p rest, s.trace = p :: rest ∧
      ((∃ i, decodePacket s.cfg.chPresent p = .op i ∧ exec i { s with trace := rest } = .next t) ∨
       (∃ bytes, decodePacket s.cfg.chPresent p = .otherLine bytes ∧
          t = receiveLine bytes { s with trace := rest })) := by
  unfold step performNext at h
  split at h
  · cases h
  · rename_i p rest htrace
    refine ⟨p, rest, htrace, ?_⟩
    unfold performPacket at h
    split at h
    · rename_i i hi
      exact .inl ⟨i, hi, h⟩
    · rename_i bytes hb
      cases h
      exact .inr ⟨bytes, hb, rfl⟩
    · cases h

/-- `step` on a run whose front packet is an operation. -/
theorem step_op {s : State} {p : Packet} {rest : List Packet} {i : Instr} (ht : s.trace = p :: rest)
    (hp : decodePacket s.cfg.chPresent p = .op i) : step s = exec i { s with trace := rest } := by
  simp only [step, performNext, ht, performPacket, hp]

/-- `step` on a run whose front packet is another command line. -/
theorem step_otherLine {s : State} {p : Packet} {rest : List Packet} {bytes : List Byte} (ht : s.trace = p :: rest)
    (hp : decodePacket s.cfg.chPresent p = .otherLine bytes) :
    step s = .next (receiveLine bytes { s with trace := rest }) := by
  simp only [step, performNext, ht, performPacket, hp]

/-- `step` on a run whose front packet spells no operation. -/
theorem step_bad {s : State} {p : Packet} {rest : List Packet} {e : DecodeError} (ht : s.trace = p :: rest)
    (hp : decodePacket s.cfg.chPresent p = .bad e) : step s = .refused (.illFormed e) := by
  simp only [step, performNext, ht, performPacket, hp]

/-- A handler's outcome: its next state where the channel is present, else a refusal. -/
theorem onPin_present {ch : Channel} {s : State} (t : State) (h : channelPresent s.cfg.chPresent ch = true) :
    onPin ch s t = .next t := by
  simp [onPin, h]

theorem onPin_absent {ch : Channel} {s : State} (t : State) (h : channelPresent s.cfg.chPresent ch = false) :
    onPin ch s t = .refused (.absentChannel ch) := by
  simp [onPin, h]

theorem onPin_cases {ch : Channel} {s t u : State} (h : onPin ch s t = .next u) :
    channelPresent s.cfg.chPresent ch = true ∧ u = t := by
  unfold onPin at h
  split at h
  · rename_i hp
    cases h
    exact ⟨hp, rfl⟩
  · cases h

/-- Everything a phase can do (R156). -/
theorem performPhase_cases (s : State) :
    (s.seq = 0 ∧ performPhase s = decideMode s) ∨
    (s.seq = 1 ∧ s.mode = .manual ∧ performPhase s = manualThrottle s) ∨
    (s.seq = 1 ∧ s.mode = .autonomous ∧ performPhase s = takeLine s) ∨
    (s.seq = 2 ∧ s.mode = .manual ∧ performPhase s = manualSteer s) ∨
    (s.seq = 2 ∧ s.mode = .autonomous ∧ performPhase s = s) ∨
    (s.seq = 3 ∧ performPhase s = commit s) ∨
    (s.seq = 4 ∧ performPhase s = scheduleIndicators s) ∨
    (s.seq = 5 ∧ performPhase s = controlBeacon s) ∨
    (s.seq = 6 ∧ performPhase s = controlSiren s) := by
  unfold performPhase
  generalize s.seq = p
  match p with
  | 0 => simp
  | 1 => cases h : s.mode <;> simp
  | 2 => cases h : s.mode <;> simp
  | 3 => simp
  | 4 => simp
  | 5 => simp
  | 6 => simp

/-- Everything `TAKE` can do (R174). -/
theorem takeLine_cases (s : State) :
    (s.rx.complete = true ∧ takeLine s =
      { s with
        rx := { buf := [], complete := false }
        cmd := policy s.cfg (parse s.cfg.nIsStop (trim s.rx.buf)) s.cmd
        results := s.results ++ [.taken (some (trim s.rx.buf))] }) ∨
    (s.rx.complete = false ∧ takeLine s =
      { s with cmd := policyNone s.cmd, results := s.results ++ [.taken none] }) := by
  unfold takeLine
  cases h : s.rx.complete
  · exact .inr ⟨rfl, rfl⟩
  · exact .inl ⟨rfl, rfl⟩

@[simp] theorem execAll_nil (s : State) : execAll [] s = .next s := rfl

/-- A sequence whose first operation answers a next state goes on from there. -/
theorem execAll_cons_next {i : Instr} {is : List Instr} {s t : State} (h : exec i s = .next t) :
    execAll (i :: is) s = execAll is t := by
  simp [execAll, h]

/-- A sequence that answers a next state, first operation apart. -/
theorem execAll_cons_cases {i : Instr} {is : List Instr} {s u : State} (h : execAll (i :: is) s = .next u) :
    ∃ t, exec i s = .next t ∧ execAll is t = .next u := by
  simp only [execAll] at h
  split at h
  · exact ⟨_, ‹_›, h⟩
  · cases h
  · cases h

/-- Two sequences one after the other. -/
theorem execAll_append_next {is js : List Instr} {s t : State} (h : execAll is s = .next t) :
    execAll (is ++ js) s = execAll js t := by
  induction is generalizing s with
  | nil =>
    cases h
    rfl
  | cons i is ih =>
    obtain ⟨u, hu, hrest⟩ := execAll_cons_cases h
    rw [List.cons_append, execAll_cons_next hu, ih hrest]

/-- The `BYTE`s of a text are the text received (R60, R73). -/
theorem execAll_bytes (bytes : List Byte) (s : State) :
    execAll (bytes.map .byte) s = .next (receiveLine bytes s) := by
  induction bytes generalizing s with
  | nil => rfl
  | cons b bs ih => exact ih _

end Sys2Proof.Machine
end

