-- ==== Sys2Proof/Tests/Slice0.lean ====
section
/-! SUPPORT. Tests on one step each, expected values from spec/95_test_vectors.md (its vector named at each), and for
every statement with hypotheses a state and operands that meet them. -/

namespace Sys2Proof.Tests

open Sys2Proof Sys2Proof.Machine Sys2Proof.Safety

/-! ### Helpers -/

/-- The configuration of spec/95_test_vectors.md: the values of R22, `BUF_CAP` 16. -/
def cfg : Config :=
  { Config.thisHardware with bufCap := 16, tFrame := 20000, beaconLevel := 1, pin := PerChannel.fill 0 }

/-- The reset state under that configuration. -/
def base : State := { State.reset with cfg := cfg }

/-- The same without channels 3 and 4 (V1 row 17). -/
def base3 : State := { base with cfg := { cfg with chPresent := 0b00111 } }

/-- A field of the next state, if there is one. -/
def after {α : Type} (o : Host.Outcome State Fault Refusal) (f : State → α) : Option α :=
  match o with
  | .next t => some (f t)
  | .fault _ => none
  | .refused _ => none

/-- Whether a step refuses a descriptor as ill formed. -/
def refuses (s : State) (w : BitVec 48) : Bool :=
  match step { s with trace := [.opd w] } with
  | .refused (.illFormed _) => true
  | _ => false

/-- The four parts of `cmd` as the vectors write them. -/
def quad (s : State) : Word × Word × Bool × IndRequest := (s.cmd.steer, s.cmd.throttle, s.cmd.issue, s.cmd.ind)

/-- `s` with the latch as the vectors write it. -/
def withQuad (s : State) (steer throttle : Word) (issue : Bool) (ind : IndRequest) : State :=
  s.withCmd { steer := steer, throttle := throttle, issue := issue, ind := ind }

/-- A text's bytes. -/
def text (str : String) : List Byte := str.toList.map (fun c => BitVec.ofNat 8 c.toNat)

/-- What a descriptor decodes to with every channel present. -/
def dec (w : BitVec 48) : Decoded := decodePacket 0b11111 (.opd w)

/-! ### WellFormed: each check refuses an ill-formed operation -/

theorem test_wellformed_rise_absent : (Instr.rise .bcn).wellFormed 0b00111 = false := by decide
theorem test_wellformed_fall_absent : (Instr.fall .srn).wellFormed 0b01111 = false := by decide
theorem test_wellformed_lineS_pre : (Instr.lineS [0x58] []).wellFormed 0b11111 = false := by decide
theorem test_wellformed_lineS_post : (Instr.lineS [] [0x31]).wellFormed 0b11111 = false := by decide
theorem test_wellformed_lineN_pre : (Instr.lineN [0x0E] []).wellFormed 0b11111 = false := by decide
theorem test_wellformed_lineN_post : (Instr.lineN [] [0x08]).wellFormed 0b11111 = false := by decide
theorem test_wellformed_lineD_pre : (Instr.lineD [0x21] none [5] []).wellFormed 0b11111 = false := by decide
theorem test_wellformed_lineD_post : (Instr.lineD [] none [5] [0x61]).wellFormed 0b11111 = false := by decide
theorem test_wellformed_lineD_no_digit : (Instr.lineD [] (some .minus) [] []).wellFormed 0b11111 = false := by decide
theorem test_wellformed_lineD_above_range :
    (Instr.lineD [] none [2, 1, 4, 7, 4, 8, 3, 6, 4, 8] []).wellFormed 0b11111 = false := by decide
theorem test_wellformed_lineD_below_range :
    (Instr.lineD [] (some .minus) [2, 1, 4, 7, 4, 8, 3, 6, 4, 9] []).wellFormed 0b11111 = false := by decide

/-! ### Decoding: words written out from the spec's encoding (R63, V1, V3, V10, P1 to P7) -/

theorem test_decode_capture :
    dec 0x010000000640 = .op (.tick 1600) ∧ dec 0x0100FFFFFFFF = .op (.tick 4294967295) ∧
    dec 0x020200000000 = .op (.rise .mode) ∧ dec 0x020100000000 = .op (.rise .thr) ∧
    dec 0x030000000000 = .op (.fall .steer) ∧ dec 0x030300000000 = .op (.fall .bcn) ∧
    dec 0x040400000000 = .op (.read .srn) := by decide

theorem test_decode_mode_manual :
    dec 0x050000000000 = .op .mode ∧ dec 0x060000000000 = .op .mant ∧ dec 0x070000000000 = .op .mans := by decide

theorem test_decode_policy :
    dec 0x08000000002D = .op (.mapdev 45) ∧ dec 0x0800FFFFFFD3 = .op (.mapdev (BitVec.ofInt 32 (-45))) ∧
    dec 0x090000000000 = .op .mapstop ∧ dec 0x0A0000000000 = .op .mapunr ∧ dec 0x0B0000000000 = .op .mapnone := by decide

theorem test_decode_output_sequencer :
    dec 0x0C0000000000 = .op .actwr ∧ dec 0x0D0000000000 = .op .frame ∧ dec 0x0E0000000000 = .op .step ∧
    dec 0x0F0000000000 = .op .reset := by decide

theorem test_decode_annex :
    dec 0x100000000044 = .op (.byte 0x44) ∧ dec 0x10000000000A = .op (.byte 0x0A) ∧ dec 0x110000000000 = .op .take ∧
    dec 0x120000000000 = .op .ind ∧ dec 0x130000000000 = .op .bcn ∧ dec 0x140000000000 = .op .srn := by decide

/-- R69 and R70, V6 rows 2 to 4, 9 to 12. -/
theorem test_decode_lines :
    decodeLine [0x53, 0x0A] = .op (.lineS [] []) ∧ decodeLine [0x53, 0x0D, 0x0A] = .op (.lineS [] [0x0D]) ∧
    decodeLine [0x4E, 0x0A] = .op (.lineN [] []) ∧
    decodeLine [0x44, 0x3A, 0x2D, 0x34, 0x35, 0x0A] = .op (.lineD [] (some .minus) [4, 5] []) ∧
    decodeLine [0x44, 0x3A, 0x2B, 0x37, 0x0A] = .op (.lineD [] (some .plus) [7] []) ∧
    decodeLine [0x44, 0x3A, 0x30, 0x30, 0x37, 0x0A] = .op (.lineD [] none [0, 0, 7] []) ∧
    decodeLine [0x20, 0x20, 0x44, 0x3A, 0x35, 0x09, 0x0A] = .op (.lineD [0x20, 0x20] none [5] [0x09]) := by decide

/-- R69 and R70, V6 rows 7, 13, 14: every line there is another line. -/
theorem test_decode_other_lines :
    (["s", "n", "d:5", "SS", "S 1", "D:", "D:-", "D: 5", "D:5 5", "D:5.0", "D:0x10", "D:5a", "X", "",
      "D:2147483648"].map (fun l => decodeLine (text l ++ [0x0A]))) =
    (["s", "n", "d:5", "SS", "S 1", "D:", "D:-", "D: 5", "D:5 5", "D:5.0", "D:0x10", "D:5a", "X", "",
      "D:2147483648"].map (fun l => .otherLine (text l ++ [0x0A]))) := by decide

/-- A table word: op in bits 47:40 of a descriptor; the bytes of a line in order, the first in bits 7:0. -/
theorem test_decode_table_words :
    decodeTableWord 48 0x010000000640 = some (.tick 1600) ∧ decodeTableWord 16 0x0A53 = some (.lineS [] []) ∧
    decodeTableWord 48 0 = none := by decide

theorem test_fetch_word : step (base.withFetchWord 48 0x0F0000000000) = exec .reset base := by rfl

/-! ### One step of each operation -/

/-- V1 row 2. -/
theorem test_tick_wraps : after (exec (.tick 0x200) (base.withNow 0xFFFFFF00)) (·.now) = some 0x100 := by decide
/-- V1 row 3. -/
theorem test_tick_zero : after (exec (.tick 0) (base.withNow 7)) (·.now) = some 7 := by decide
/-- V1 row 4. -/
theorem test_rise_stamps :
    after (exec (.rise .mode) (base.withNow 5000)) (fun t => (t.start.mode, t.armed.mode, t.width.mode, t.start.thr)) =
      some (5000, true, 1500, 0) := by decide
/-- V1 row 17. -/
theorem test_rise_absent : exec (.rise .bcn) base3 = .refused (.absentChannel .bcn) := by rfl
/-- V1 row 7. -/
theorem test_fall_across_wrap :
    after (exec (.fall .steer) (((base.withNow 0x100).writeStart .steer 0xFFFFFF00).writeArmed .steer true))
      (fun t => (t.width.steer, t.armed.steer, t.start.steer)) = some (512, false, 0xFFFFFF00) := by decide
/-- V1 row 6. -/
theorem test_fall_unarmed : after (exec (.fall .steer) (base.withNow 700)) (·.width.steer) = some 1500 := by decide
/-- V1 row 14. -/
theorem test_read : after (exec (.read .steer) (base.writeWidth .steer 1620)) (·.results) = some [.width 1620] := by decide
/-- V1 row 17. -/
theorem test_read_absent : after (exec (.read .bcn) base3) (·.results) = some [.width 1500] := by decide
/-- V2 rows 1 and 2. -/
theorem test_mode_threshold :
    after (exec .mode (base.writeWidth .mode 1500)) (·.mode) = some .manual ∧
    after (exec .mode (base.writeWidth .mode 1501)) (·.mode) = some .autonomous := by decide
/-- V2 row 4: unsigned. -/
theorem test_mode_unsigned : after (exec .mode (base.writeWidth .mode 0xFFFFFFFF)) (·.mode) = some .autonomous := by decide
/-- V2 row 11. -/
theorem test_mant_latch : after (exec .mant (withQuad base 1000 1550 false .off)) quad = some (1000, 1500, true, .run) := by
  decide
/-- V2 rows 5 to 7. -/
theorem test_mant_clamp :
    ([1439, 1441, 1559, 1561, 0, 0x7FFFFFFF, 0x80000000, 0xFFFFFFFF] : List Word).map
      (fun w => after (exec .mant (base.writeWidth .thr w)) (·.cmd.throttle)) =
    ([1440, 1441, 1559, 1560, 1440, 1560, 1560, 1560] : List Word).map some := by decide
/-- V2 rows 8 to 10. -/
theorem test_mans_clamp :
    ([999, 1000, 1001, 1999, 2000, 2001, 2200, 0, 0xFFFFFFFF] : List Word).map
      (fun w => after (exec .mans (base.writeWidth .steer w)) (·.cmd.steer)) =
    ([1000, 1000, 1001, 1999, 2000, 2000, 2000, 1000, 2000] : List Word).map some := by decide
/-- V3 rows 1 to 23. -/
theorem test_mapdev_table :
    ([1, 2, 3, 10, 39, 40, 79, 80, 99, 100, 2147483647, -1, -2, -3, -39, -40, -79, -80, -99, -100, -2147483648] :
        List Int).map (fun d => after (exec (.mapdev (BitVec.ofInt 32 d)) base) quad) =
    ([(1460, 1560), (1420, 1560), (1400, 1560), (1400, 1560), (1400, 1560), (1000, 1550), (1000, 1550), (1800, 1440),
      (1800, 1440), (1800, 1430), (1800, 1430), (1540, 1560), (1580, 1560), (1600, 1560), (1600, 1560), (2000, 1550),
      (2000, 1550), (1200, 1440), (1200, 1440), (1200, 1430), (1200, 1430)] :
        List (Word × Word)).map (fun p => some (p.1, p.2, true, .run)) := by decide
/-- V3 rows 24 and 25. -/
theorem test_mapdev_zero :
    after (exec (.mapdev 0) (withQuad base 1400 1560 true .off)) quad = some (1400, 1560, false, .keep) ∧
    after (exec (.mapdev 0) { withQuad base 1400 1560 true .off with cfg := { cfg with d0Policy := .neutral } }) quad =
      some (1500, 1500, true, .run) := by decide
/-- V3 row 26. -/
theorem test_mapstop : after (exec .mapstop (withQuad base 1400 1560 true .run)) quad = some (1500, 1440, true, .off) := by
  decide
/-- V3 row 29. -/
theorem test_mapstop_threshold :
    after (exec .mapstop { base with cfg := { cfg with stopThr := 1435 } }) (·.cmd.throttle) = some 1435 := by decide
/-- V3 row 27. -/
theorem test_mapunr : after (exec .mapunr (withQuad base 1400 1560 true .run)) quad = some (1400, 1560, false, .off) := by
  decide
/-- V3 row 28. -/
theorem test_mapnone : after (exec .mapnone (withQuad base 1400 1560 true .run)) quad = some (1400, 1560, false, .keep) := by
  decide
/-- V4 row 2. -/
theorem test_actwr_hold :
    after (exec .actwr ((withQuad base 1400 1560 false .off).withAct ⟨1000, 1550⟩)) (fun t => (t.act, t.ind.inhibit)) =
      some (⟨1000, 1550⟩, true) := by decide
/-- V4 row 1. -/
theorem test_actwr_issue :
    after (exec .actwr ((withQuad base 1400 1560 true .run).withInd ⟨true, false, false, 0, 0⟩))
      (fun t => (t.act, t.ind.inhibit)) = some (⟨1400, 1560⟩, false) := by decide
/-- V4 row 6: the latch does not show before its commit. -/
theorem test_frame : after (exec .frame (withQuad base 1000 1550 true .run)) (·.results) = some [.frame 1500 1500] := by
  decide
/-- V5 row 2. -/
theorem test_step_manual :
    after (exec .step ((base.withSeq 1).writeWidth .thr 1300)) (fun t => (quad t, t.seq)) =
      some ((1500, 1440, true, .run), 2) := by decide
/-- V5 row 4. -/
theorem test_step_autonomous_phase_2 :
    after (exec .step ((base.withSeq 2).withMode .autonomous)) (fun t => (quad t, t.seq)) =
      some ((1500, 1500, false, .keep), 3) := by decide
/-- V5 row 6. -/
theorem test_reset :
    after (exec .reset (((base.withSeq 4).withMode .autonomous).withAct ⟨1000, 1550⟩))
      (fun t => (t.seq, t.mode, t.act)) = some (0, .manual, ⟨1500, 1500⟩) := by decide
/-- V6 row 16. -/
theorem test_byte_appends :
    after (exec (.byte 0x35) (base.withRx ⟨text "D:4", false⟩)) (·.rx) = some ⟨text "D:45", false⟩ := by decide
/-- V6 rows 19 and 20. -/
theorem test_byte_full :
    after (exec (.byte 0x41) (base.withRx ⟨List.replicate 16 0x41, false⟩)) (·.rx) =
      some ⟨List.replicate 16 0x41, false⟩ ∧
    after (exec (.byte 0x0A) (base.withRx ⟨List.replicate 16 0x41, false⟩)) (·.rx) =
      some ⟨List.replicate 16 0x41, true⟩ := by decide
/-- V6 row 15. -/
theorem test_take_run_together :
    after (exec .take (base.withRx ⟨text "D:10D:20", true⟩)) (fun t => (quad t, t.rx, t.results)) =
      some ((1500, 1500, false, .off), ⟨[], false⟩, [.taken (some (text "D:10D:20"))]) := by decide
/-- V6 row 17. -/
theorem test_take_incomplete :
    after (exec .take (base.withRx ⟨text "D:4", false⟩)) (fun t => (quad t, t.rx, t.results)) =
      some ((1500, 1500, false, .keep), ⟨text "D:4", false⟩, [.taken none]) := by decide
/-- V6 row 11. -/
theorem test_lineS : after (exec (.lineS [] [0x0D]) base) (·.rx) = some ⟨[0x53, 0x0D], true⟩ := by decide
/-- R69, R173: received after a line that was not taken. -/
theorem test_lineN : after (exec (.lineN [] []) (base.withRx ⟨[0x53], true⟩)) (·.rx) = some ⟨[0x53, 0x4E], true⟩ := by
  decide
/-- S5. -/
theorem test_lineD : after (exec (.lineD [] none [4, 5] []) base) (·.rx) = some ⟨text "D:45", true⟩ := by decide
/-- V7 row 9. -/
theorem test_ind_right :
    after (exec .ind (((base.withNow 300000).withAct ⟨1551, 1560⟩).withInd ⟨false, true, true, 0, 100000⟩)) (·.ind) =
      some ⟨false, false, false, 0, 300000⟩ := by decide
/-- V7 row 12: the difference is modular. -/
theorem test_ind_left_across_wrap :
    after (exec .ind (((base.withNow 0x21000).withAct ⟨1400, 1560⟩).withInd ⟨false, true, false, 0xFFFF0000, 0⟩)) (·.ind) =
      some ⟨false, false, false, 0x21000, 0⟩ := by decide
/-- V8 row 4. -/
theorem test_bcn_toggles :
    after (exec .bcn ((base.withNow 300000).writeWidth .bcn 1700)) (·.bcn) =
      some ⟨.colourB, false, true, false, 300000⟩ := by decide
/-- V8 row 5. -/
theorem test_bcn_inactive :
    after (exec .bcn (base.withBcn ⟨.colourB, false, true, false, 300000⟩)) (·.bcn) =
      some ⟨.colourB, false, false, false, 300000⟩ := by decide
/-- V9 row 4. -/
theorem test_srn_turns_down :
    after (exec .srn (((base.withNow 5000).writeWidth .srn 1800).withSrn ⟨false, .up, 990, 0⟩)) (·.srn) =
      some ⟨true, .down, 1000, 5000⟩ := by decide
/-- V9 row 8. -/
theorem test_srn_inactive :
    after (exec .srn ((base.writeWidth .srn 1400).withSrn ⟨true, .down, 730, 0⟩)) (·.srn) =
      some ⟨false, .down, 730, 0⟩ := by decide

/-- R22: registers 0 to 10, by number. -/
theorem test_config_registers :
    ([0, 1, 2, 3, 4, 5, 6, 7, 8, 9, 10] : List (Fin 14)).map Config.thisHardware.register =
      [31, 1440, 1560, 1000, 2000, 1500, 1440, 0, 1, 1600, 1500] := by decide
/-- R72. -/
theorem test_written :
    written (.rise .thr) = ["RISE thr"] ∧ written (.mapdev 0xFFFFFFD3) = ["MAPDEV -45"] ∧
    written (.byte 0xD3) = ["BYTE 0xD3"] := by decide

/-! ### States and operands that meet the hypotheses of the statements -/

/-- R22's bounds as a test. -/
def legal (c : Config) : Bool := decide c.Legal

/-- R22's bounds, both ends. -/
theorem test_legal_bounds :
    cfg.Legal ∧ legal { cfg with thrLo := 1000, thrHi := 2000, stopThr := 1435 } = true ∧
    legal { cfg with thrLo := 1500, thrHi := 1500 } = true ∧ legal { cfg with thrLo := 999 } = false ∧
    legal { cfg with thrHi := 2001 } = false ∧ legal { cfg with stopThr := 1441 } = false ∧ legal { cfg with bufCap := 15 } = false ∧
    legal { cfg with tFrame := 2000 } = false ∧ legal { cfg with beaconLevel := 0 } = false := by decide

theorem witness_DecodeGivesBackEncodedOperation :
    (Instr.rise .mode).wellFormed 0b00111 = true ∧ (Instr.fall .srn).wellFormed 0b11111 = true ∧
    (Instr.tick 0xFFFFFFFF).wellFormed 0 = true ∧ (Instr.lineS [0x20] [0x0D]).wellFormed 0 = true ∧
    (Instr.lineD [0x09] (some .minus) [2, 1, 4, 7, 4, 8, 3, 6, 4, 8] [0x0C]).wellFormed 0 = true ∧
    (Instr.lineD [] none [2, 1, 4, 7, 4, 8, 3, 6, 4, 7] []).wellFormed 0 = true := by decide

theorem witness_OperationHasOneSpelling :
    decodePacket 0b11111 (.opd 0x0304_00000000) = .op (.fall .srn) ∧
    decodePacket 0 (.line [0x20, 0x4E, 0x0A]) = .op (.lineN [0x20] []) := by decide

/-- Each way of being ill formed, at the boundary of its field (R62, R64, R67, V10). -/
theorem witness_IllFormedDescriptorsRefuseTheRun :
    (([0x000000000000, 0x150000000000, 0xFF0000000000, 0x010100000000, 0x08FF00000000, 0x020500000000, 0x040500000000,
      0x04FF00000000, 0x040800000000, 0x020200000001, 0x030080000000, 0x100000000100, 0x100100000000, 0x050100000000,
      0x070000000001, 0x090100000000, 0x0E0000000001, 0x0F0100000000, 0x110000000001, 0x140100000000] :
      List (BitVec 48)).all (refuses base) = true) ∧
    refuses base3 0x020300000000 = true ∧ refuses base3 0x030400000000 = true := by decide

/-- The other side of the same boundaries. -/
theorem witness_WellFormedDescriptorsAreNotRefused :
    (([0x0100FFFFFFFF, 0x020400000000, 0x030000000000, 0x040400000000, 0x080080000000, 0x1000000000FF, 0x050000000000,
      0x070000000000, 0x090000000000, 0x0F0000000000, 0x110000000000, 0x140000000000] :
      List (BitVec 48)).any (refuses base) = false) ∧
    refuses base3 0x020200000000 = false ∧ refuses base3 0x040300000000 = false := by decide

/-- A run whose first packet is `TICK 1600`. -/
def ticking : State := { base with trace := [.opd 0x010000000640, .opd 0x0E0000000000] }

theorem witness_StepRunsTheDecodedOperation :
    ticking.trace = .opd 0x010000000640 :: [.opd 0x0E0000000000] ∧
    decodePacket ticking.cfg.chPresent (.opd 0x010000000640) = .op (.tick 1600) := by decide

theorem witness_OtherLineIsReceivedAsItsBytes :
    { base with trace := [.line [0x58, 0x0A]] }.trace = .line [0x58, 0x0A] :: [] ∧
    decodePacket base.cfg.chPresent (.line [0x58, 0x0A]) = .otherLine [0x58, 0x0A] := by decide

theorem witness_RunEndsWhereItsSequenceEnds : base.trace = [] := by decide

theorem witness_StepTakesOnePacketAndKeepsConfiguration :
    step ticking = .next { base with now := 1600, trace := [.opd 0x0E0000000000] } := by rfl

theorem witness_WellFormedOperationsComplete :
    (Instr.rise .steer).wellFormed base.cfg.chPresent = true ∧ (Instr.rise .mode).wellFormed base3.cfg.chPresent = true ∧
    Instr.take.wellFormed base3.cfg.chPresent = true := by decide

/-- Both clauses: a present and an absent channel. -/
theorem witness_RiseRecordsThePulseStart :
    channelPresent base3.cfg.chPresent .mode = true ∧ channelPresent base3.cfg.chPresent .bcn = false := by decide

/-- The three clauses: armed, not armed, absent. -/
theorem witness_FallPublishesTheElapsedTime :
    (channelPresent (base.writeArmed .thr true).cfg.chPresent .thr = true ∧
      (base.writeArmed .thr true).armed.get .thr = true) ∧
    (channelPresent base.cfg.chPresent .thr = true ∧ base.armed.get .thr = false) ∧
    channelPresent base3.cfg.chPresent .srn = false := by decide

/-- Operations of four agents between the two handlers of channel 0. -/
def between : List Instr := [.tick 200, .rise .thr, .byte 0x53, .tick 1300, .step, .frame]

theorem witness_PublishedWidthIsTheTimeInBetween :
    channelPresent base.cfg.chPresent .steer = true ∧ tickedTime between = 1500 ∧
    (∀ i ∈ between, i.wellFormed base.cfg.chPresent = true ∧ i ≠ .rise .steer ∧ i ≠ .fall .steer ∧ i ≠ .reset) := by decide

/-- Both clauses; for `STEP` at phase 0, which reads channel 2 and not channel 0. -/
theorem witness_HandlersCommute :
    (Channel.steer ≠ .thr ∧ channelPresent base.cfg.chPresent .steer = true ∧
      channelPresent base.cfg.chPresent .thr = true) ∧
    (agentOf .step = .mainLoop ∧ Channel.steer ∉ widthsRead .step base ∧ Channel.mode ∈ widthsRead .step base) ∧
    (agentOf (.read .bcn) = .mainLoop ∧ Channel.mode ∉ widthsRead (.read .bcn) base) := by decide

theorem witness_IndependentOperationsCommute :
    Instr.ind ∈ [Instr.ind, .bcn, .srn] ∧ Instr.srn ∈ [Instr.ind, .bcn, .srn] ∧ Instr.ind ≠ .srn ∧
    channelPresent base.cfg.chPresent .steer = true := by decide

theorem witness_OnlyFallOrResetChangesAWidth :
    after (exec (.fall .steer) ((base.withNow 7).writeArmed .steer true)) (·.width.steer) = some 7 ∧
    base.width.steer = 1500 ∧
    after (exec .reset (base.writeWidth .steer 7)) (·.width.steer) = some 1500 := by decide

theorem witness_AbsentChannelKeepsItsResetValues :
    (channelPresent base3.cfg.chPresent .bcn = false ∧ base3.start.get .bcn = 0 ∧ base3.armed.get .bcn = false ∧
      base3.width.get .bcn = 1500) ∧
    after (step { base3 with trace := [.opd 0x040300000000] }) (·.results) = some [.width 1500] := by decide

theorem witness_ManualCommandIsInRange :
    base.cfg.Legal ∧ base.cfg.thrLo.toNat ≤ base.cfg.thrHi.toNat := by decide

/-- Every band at both its ends, and the two policies of `d = 0`. -/
theorem witness_MapdevFollowsTheBandTable :
    ((0 < (1#32).toInt ∧ (1#32).toInt < 40) ∧ (0 < (39#32).toInt ∧ (39#32).toInt < 40)) ∧
    ((-40 < (BitVec.ofInt 32 (-39)).toInt ∧ (BitVec.ofInt 32 (-39)).toInt < 0) ∧
      (-40 < (BitVec.ofInt 32 (-1)).toInt ∧ (BitVec.ofInt 32 (-1)).toInt < 0)) ∧
    ((40 ≤ (40#32).toInt ∧ (40#32).toInt < 80) ∧ (40 ≤ (79#32).toInt ∧ (79#32).toInt < 80)) ∧
    ((-80 < (BitVec.ofInt 32 (-79)).toInt ∧ (BitVec.ofInt 32 (-79)).toInt ≤ -40) ∧
      (-80 < (BitVec.ofInt 32 (-40)).toInt ∧ (BitVec.ofInt 32 (-40)).toInt ≤ -40)) ∧
    ((80 ≤ (80#32).toInt ∧ (80#32).toInt < 100) ∧ (80 ≤ (99#32).toInt ∧ (99#32).toInt < 100)) ∧
    ((-100 < (BitVec.ofInt 32 (-99)).toInt ∧ (BitVec.ofInt 32 (-99)).toInt ≤ -80) ∧
      (-100 < (BitVec.ofInt 32 (-80)).toInt ∧ (BitVec.ofInt 32 (-80)).toInt ≤ -80)) ∧
    (100 ≤ (100#32).toInt ∧ 100 ≤ (0x7FFFFFFF#32).toInt) ∧
    ((BitVec.ofInt 32 (-100)).toInt ≤ -100 ∧ (0x80000000#32).toInt ≤ -100) ∧
    ((0#32).toInt = 0 ∧ base.cfg.d0Policy = .hold ∧
      { base with cfg := { cfg with d0Policy := .neutral } }.cfg.d0Policy = .neutral) := by decide

theorem witness_PolicyIssuesTabulatedValues :
    base.cfg.Legal ∧ after (exec (.mapdev 1) base) (·.cmd.issue) = some true ∧
    after (exec .mapstop base) (·.cmd.issue) = some true ∧
    after (exec (.mapdev 0) { base with cfg := { cfg with d0Policy := .neutral } }) (·.cmd.issue) = some true := by decide

theorem witness_OutputsHoldWithoutAnIssuedCommand :
    after (exec .actwr (withQuad base 1400 1560 true .run)) (·.act) = some ⟨1400, 1560⟩ ∧
    after (exec .step ((withQuad base 1400 1560 true .run).withSeq 3)) (·.act) = some ⟨1400, 1560⟩ ∧
    base.act ≠ ⟨1400, 1560⟩ ∧
    after (exec .reset (base.withAct ⟨1400, 1560⟩)) (·.act) = some ⟨1500, 1500⟩ := by decide

/-- A state with outputs and latch at the ends of the range, and its step. -/
theorem witness_OutputsStayInActuatorRange :
    ActuatorsInRange ((withQuad ticking 1000 2000 true .run).withAct ⟨2000, 1000⟩) ∧
    after (step ((withQuad ticking 1000 2000 true .run).withAct ⟨2000, 1000⟩)) (·.act) = some ⟨2000, 1000⟩ := by
  refine ⟨⟨by decide, ?_, ?_, ?_, ?_⟩, by decide⟩ <;> exact ⟨by decide, by decide⟩

/-- Every phase, in both modes. -/
theorem witness_StepPerformsThePhaseAndAdvances :
    (List.finRange 7).map (fun p => (base.withSeq p).seq) = [0, 1, 2, 3, 4, 5, 6] ∧
    (base.withSeq 1).mode = .manual ∧ ((base.withSeq 1).withMode .autonomous).mode = .autonomous := by decide

theorem witness_OnlyStepAndResetMoveThePhase :
    after (exec .step (base.withSeq 6)) (·.seq) = some 0 ∧ after (exec .step (base.withSeq 5)) (·.seq) = some 6 ∧
    after (exec .reset (base.withSeq 6)) (·.seq) = some 0 ∧ after (exec .mode (base.withSeq 6)) (·.seq) = some 6 := by
  decide

theorem witness_ModeIsDecidedOncePerIteration :
    after (exec .mode (base.writeWidth .mode 1501)) (·.mode) = some .autonomous ∧
    after (exec .step (base.writeWidth .mode 1501)) (·.mode) = some .autonomous ∧ base.mode = .manual ∧
    after (exec .reset (base.withMode .autonomous)) (·.mode) = some .manual := by decide

/-- The manual case and the two autonomous ones, at the threshold. -/
theorem witness_IterationComputesOutputsFromInputs :
    (base.seq = 0 ∧ base.width.mode.toNat ≤ 1500) ∧
    ((base.writeWidth .mode 1501).seq = 0 ∧ 1500 < (base.writeWidth .mode 1501).width.mode.toNat ∧
      (base.writeWidth .mode 1501).rx.complete = false) ∧
    (1500 < ((base.writeWidth .mode 1501).withRx ⟨text "D:10", true⟩).width.mode.toNat ∧
      ((base.writeWidth .mode 1501).withRx ⟨text "D:10", true⟩).rx.complete = true) := by decide

theorem witness_FirstIterationAfterResetIsNeutral : base.cfg.Legal := by decide

/-- A complete line of each parsed kind, and no complete line. -/
theorem witness_TakeParsesAndClearsACompleteLine :
    parse true (trim (text " D:-45 ")) = .deviation (BitVec.ofInt 32 (-45)) ∧
    parse true (trim (text "S")) = .stopOrStraight ∧ parse true (trim (text "s")) = .unrecognized ∧
    (base.withRx ⟨text "S", true⟩).rx.complete = true ∧ base.rx.complete = false := by decide

/-- Both directions at the ends of the range, and `N` under both configurations. -/
theorem witness_ParseRecognisesExactlyTheListedForms :
    parse true (text "N") = .stopOrStraight ∧ parse false (text "N") = .unrecognized ∧
    parse true (text "D:2147483647") = .deviation 0x7FFFFFFF ∧ parse true (text "D:2147483648") = .unrecognized ∧
    parse true (text "D:-2147483648") = .deviation 0x80000000 ∧ parse true (text "D:-2147483649") = .unrecognized := by
  decide

/-- Lines that just fill a buffer of 16 bytes. -/
theorem witness_ReceivedLineIsTakenAsItsCommand :
    base.rx.buf = [] ∧
    ((Instr.lineS (List.replicate 15 0x20) []).wellFormed base.cfg.chPresent = true ∧ 15 + 1 + 0 ≤ base.cfg.bufCap) ∧
    ((Instr.lineN [] [0x0D]).wellFormed base.cfg.chPresent = true ∧ 0 + 1 + 1 ≤ base.cfg.bufCap) ∧
    ((Instr.lineD [0x20] (some .minus) [2, 1, 4, 7, 4, 8, 3, 6, 4, 8] [0x20, 0x0D]).wellFormed base.cfg.chPresent = true ∧
      1 + (deviationText (some .minus) [2, 1, 4, 7, 4, 8, 3, 6, 4, 8]).length + 2 ≤ base.cfg.bufCap) := by decide

/-- P6; the two lines of R173; and two lines that just fill a buffer of 16 bytes. -/
theorem witness_LinesWithoutTakeRunTogether :
    base.rx.buf = [] ∧
    (([(.lineS [] [], .lineD [] none [1, 0] []), (.lineD [] none [1, 0] [], .lineD [] none [2, 0] []),
      (.lineN [0x20, 0x0A] [0x0D], .lineD [] (some .minus) [1, 2, 3, 4, 5, 6, 7, 8, 9] [0x09])] :
      List (Instr × Instr)).all (fun p => match encode p.1, encode p.2 with
        | .line first, .line second =>
          p.1.wellFormed base.cfg.chPresent && p.2.wellFormed base.cfg.chPresent &&
            decide (((first ++ second).filter (· ≠ 0x0A)).length ≤ base.cfg.bufCap)
        | _, _ => false)) = true ∧
    (lineBytes [0x20, 0x0A] [chN] [0x0D] ++ lineBytes [] (deviationText (some .minus) [1, 2, 3, 4, 5, 6, 7, 8, 9]) [0x09]
      |>.filter (· ≠ 0x0A)).length = 16 := by decide

/-- Turning left, first toggle due at 200000 (V7 row 5). -/
def turning : State := (base.withNow 200000).withAct ⟨1400, 1500⟩

/-- Two toggles with `TICK 200000` between them; and a change by each kind of forcing. -/
theorem witness_LeftTogglesAreSpaced :
    (togglesLeft .ind turning (turning.withInd ⟨false, true, false, 200000, 0⟩) ∧
      execAll [.tick 200000] (turning.withInd ⟨false, true, false, 200000, 0⟩) =
        .next ((turning.withNow 400000).withInd ⟨false, true, false, 200000, 0⟩) ∧
      Instr.reset ∉ [Instr.tick 200000] ∧
      togglesLeft .ind ((turning.withNow 400000).withInd ⟨false, true, false, 200000, 0⟩)
        ((turning.withNow 400000).withInd ⟨false, false, false, 400000, 0⟩)) ∧
    (after (exec .ind (turning.withAct ⟨1400, 1499⟩)) (·.ind.left) = some true ∧ turning.ind.left = false) ∧
    after (exec .ind (turning.withInd ⟨true, true, false, 0, 0⟩)) (·.ind.left) = some false ∧
    after (exec .ind ((turning.withAct ⟨1450, 1500⟩).withInd ⟨false, true, false, 0, 0⟩)) (·.ind.left) = some false := by
  refine ⟨⟨⟨.inl rfl, rfl, by decide⟩, rfl, by decide, ⟨.inl rfl, rfl, by decide⟩⟩, ?_⟩
  decide

theorem witness_BeaconNeverShowsBothColours :
    BeaconOneColour (ticking.withBcn ⟨.colourB, false, true, false, 0⟩) ∧
    after (step (ticking.withBcn ⟨.colourB, false, true, false, 0⟩)) (·.now) = some 1600 := by
  refine ⟨⟨by decide, rfl⟩, by decide⟩

/-- At both bounds of the sweep. -/
theorem witness_SirenStaysInItsSweep :
    SirenInSweep ticking ∧ SirenInSweep (ticking.withSrn ⟨true, .down, 1000, 0⟩) ∧
    after (step (ticking.withSrn ⟨true, .down, 1000, 0⟩)) (·.now) = some 1600 := by
  refine ⟨⟨0, by decide, by decide, by decide, by decide⟩, ⟨50, by decide, by decide, by decide, by decide⟩, by decide⟩

/-- An operation of each agent that has a next state. -/
theorem witness_AgentsWriteOnlyTheirOwnState :
    (([.tick 1, .rise .mode, .fall .mode, .byte 0x53, .lineS [] [], .step, .take, .frame] : List Instr).all
      (fun i => decide (i ≠ .reset) && (after (exec i base) (fun _ => ())).isSome)) = true := by decide

theorem witness_EveryStepKeepsTheInvariant :
    MachineInv ticking ∧ after (step ticking) (·.now) = some 1600 := by
  refine ⟨⟨⟨by decide, ?_, ?_, ?_, ?_⟩, ⟨by decide, by decide⟩, ⟨by decide, rfl⟩,
    ⟨0, by decide, by decide, by decide, by decide⟩, ?_⟩, by decide⟩
  · exact ⟨by decide, by decide⟩
  · exact ⟨by decide, by decide⟩
  · exact ⟨by decide, by decide⟩
  · exact ⟨by decide, by decide⟩
  · intro ch h
    cases ch <;> exact absurd h (by decide)

end Sys2Proof.Tests
end

/-! ## What an operation can do, said once

`Effect s i t` lists everything that the operation `i` can leave from the state `s`, grouped by the agent that performs
it (R63); `exec_effect` ties it to `exec`.  A phase of `STEP` (R156) is listed with the operation it performs, so a
statement about a main-loop operation and about `STEP` is one case. -/

section

namespace Sys2Proof.Machine

/-- `i` performs the main-loop operation `op` in the state `s`: it is `op`, or `STEP` at the phase of `op` (R156). -/
def Performs (op : Instr) (phase : Fin 7) (s : State) (i : Instr) : Prop :=
  i = op ∨ (i = .step ∧ s.seq = phase)

/-- What a main-loop operation leaves, the advance of `seq` apart (R156 to R158). -/
inductive LoopEffect (s : State) (i : Instr) : State → Prop
  /-- `STEP` at phase 2 in mode `Autonomous`. -/
  | idle : LoopEffect s i s
  /-- `READ`. -/
  | read (ch : Channel) : LoopEffect s i (s.giveResult (.width (s.readWidth ch)))
  | decideMode (h : Performs .mode 0 s i) : LoopEffect s i (decideMode s)
  | manualThrottle (h : Performs .mant 1 s i) : LoopEffect s i (manualThrottle s)
  | manualSteer (h : Performs .mans 2 s i) : LoopEffect s i (manualSteer s)
  /-- `MAPDEV`, `MAPSTOP` and `MAPUNR`. -/
  | policy (p : ParsedCommand) : LoopEffect s i (s.withCmd (policy s.cfg p s.cmd))
  /-- `MAPNONE`. -/
  | policyNone : LoopEffect s i (s.withCmd (policyNone s.cmd))
  /-- `TAKE` of a complete line. -/
  | takeSome (h : Performs .take 1 s i) (hc : s.rx.complete = true) : LoopEffect s i
      { s with
        rx := { buf := [], complete := false }
        cmd := Machine.policy s.cfg (parse s.cfg.nIsStop (trim s.rx.buf)) s.cmd
        results := s.results ++ [.taken (some (trim s.rx.buf))] }
  /-- `TAKE` with no complete line. -/
  | takeNone (h : Performs .take 1 s i) (hc : s.rx.complete = false) : LoopEffect s i
      { s with cmd := Machine.policyNone s.cmd, results := s.results ++ [.taken none] }
  | commit (h : Performs .actwr 3 s i) : LoopEffect s i (commit s)
  | indicators (h : Performs .ind 4 s i) : LoopEffect s i (scheduleIndicators s)
  | beacon (h : Performs .bcn 5 s i) : LoopEffect s i (controlBeacon s)
  | siren (h : Performs .srn 6 s i) : LoopEffect s i (controlSiren s)

/-- `seq` after a main-loop operation (R157). -/
def seqAfter (s : State) : Instr → Fin 7
  | .step => nextPhase s.seq
  | _ => s.seq

/-- What an operation leaves (R63). -/
inductive Effect (s : State) : Instr → State → Prop
  | reset : Effect s .reset { State.reset with cfg := s.cfg, trace := s.trace, results := s.results }
  | tick (dt : Word) : Effect s (.tick dt) (s.withNow (s.now + dt))
  | rise (ch : Channel) (hp : channelPresent s.cfg.chPresent ch = true) :
      Effect s (.rise ch) ((s.writeStart ch s.now).writeArmed ch true)
  | fallArmed (ch : Channel) (hp : channelPresent s.cfg.chPresent ch = true) (ha : s.armed.get ch = true) :
      Effect s (.fall ch) ((s.writeWidth ch (elapsed s.now (s.start.get ch))).writeArmed ch false)
  | fallUnarmed (ch : Channel) (hp : channelPresent s.cfg.chPresent ch = true) (ha : s.armed.get ch = false) :
      Effect s (.fall ch) s
  /-- `BYTE`, and a command line, which is bytes. -/
  | receive {i : Instr} (bytes : List Byte) (hi : agentOf i = .serialHandler) : Effect s i (receiveLine bytes s)
  | frame : Effect s .frame (s.giveResult (.frame s.act.steer s.act.throttle))
  | mainLoop {i : Instr} {u : State} (hi : agentOf i = .mainLoop) (h : LoopEffect s i u) :
      Effect s i (u.withSeq (seqAfter s i))

theorem LoopEffect.take {s : State} {i : Instr} (h : Performs .take 1 s i) : LoopEffect s i (takeLine s) := by
  rcases takeLine_cases s with ⟨hc, ht⟩ | ⟨hc, ht⟩
  · exact ht ▸ .takeSome h hc
  · exact ht ▸ .takeNone h hc

/-- Before `seq` advances, `STEP` has done what the operation of its phase does (R156). -/
theorem performPhase_effect (s : State) : LoopEffect s .step (performPhase s) := by
  rcases performPhase_cases s with ⟨hp, h⟩ | ⟨hp, _, h⟩ | ⟨hp, _, h⟩ | ⟨hp, _, h⟩ | ⟨_, _, h⟩ | ⟨hp, h⟩ | ⟨hp, h⟩ |
    ⟨hp, h⟩ | ⟨hp, h⟩ <;> rw [h]
  · exact .decideMode (.inr ⟨rfl, hp⟩)
  · exact .manualThrottle (.inr ⟨rfl, hp⟩)
  · exact .take (.inr ⟨rfl, hp⟩)
  · exact .manualSteer (.inr ⟨rfl, hp⟩)
  · exact .idle
  · exact .commit (.inr ⟨rfl, hp⟩)
  · exact .indicators (.inr ⟨rfl, hp⟩)
  · exact .beacon (.inr ⟨rfl, hp⟩)
  · exact .siren (.inr ⟨rfl, hp⟩)

theorem LoopEffect.seq_eq {s u : State} {i : Instr} (h : LoopEffect s i u) : u.seq = s.seq := by
  cases h <;> rfl

/-- A main-loop operation other than `STEP` does not advance `seq`. -/
theorem Effect.direct {s u : State} {i : Instr} (h : LoopEffect s i u) (hi : agentOf i = .mainLoop := by rfl)
    (hseq : seqAfter s i = s.seq := by rfl) : Effect s i u := by
  have hu : u.withSeq (seqAfter s i) = u := by rw [hseq, ← h.seq_eq]; rfl
  exact hu ▸ .mainLoop hi h

/-- Everything an operation with a next state can do. -/
theorem exec_effect {s t : State} {i : Instr} (h : exec i s = .next t) : Effect s i t := by
  cases i with
  | tick dt => cases h; exact .tick dt
  | rise ch =>
    obtain ⟨hp, rfl⟩ := onPin_cases h
    exact .rise ch hp
  | fall ch =>
    obtain ⟨hp, rfl⟩ := onPin_cases h
    cases ha : s.armed.get ch
    · exact .fallUnarmed ch hp ha
    · exact .fallArmed ch hp ha
  | read ch => cases h; exact .direct (.read ch)
  | mode => cases h; exact .direct (.decideMode (.inl rfl))
  | mant => cases h; exact .direct (.manualThrottle (.inl rfl))
  | mans => cases h; exact .direct (.manualSteer (.inl rfl))
  | mapdev d => cases h; exact .direct (.policy (.deviation d))
  | mapstop => cases h; exact .direct (.policy .stopOrStraight)
  | mapunr => cases h; exact .direct (.policy .unrecognized)
  | mapnone => cases h; exact .direct .policyNone
  | actwr => cases h; exact .direct (.commit (.inl rfl))
  | frame => cases h; exact .frame
  | step => cases h; exact .mainLoop rfl (performPhase_effect s)
  | reset => cases h; exact .reset
  | byte b => cases h; exact .receive [b] rfl
  | take => cases h; exact .direct (.take (.inl rfl))
  | ind => cases h; exact .direct (.indicators (.inl rfl))
  | bcn => cases h; exact .direct (.beacon (.inl rfl))
  | srn => cases h; exact .direct (.siren (.inl rfl))
  | lineS pre post => cases h; exact .receive _ rfl
  | lineN pre post => cases h; exact .receive _ rfl
  | lineD pre sign digits post => cases h; exact .receive _ rfl

/-! ### A step as a sequence of operations -/

/-- A property that every operation keeps is kept by a sequence of operations. -/
theorem execAll_keeps {P : State → Prop} (hexec : ∀ (i : Instr) (s t : State), P s → exec i s = .next t → P t)
    {ops : List Instr} {s t : State} (hs : P s) (h : execAll ops s = .next t) : P t := by
  induction ops generalizing s with
  | nil => cases h; exact hs
  | cons i ops ih =>
    obtain ⟨u, hu, hrest⟩ := execAll_cons_cases h
    exact ih (hexec i s u hs hu) hrest

/-- A step takes the front packet off the run and performs operations: the packet's own, or the `BYTE`s of a line that
is none of the recognised ones (R60, R71). -/
theorem step_execAll {s t : State} (h : step s = .next t) :
    ∃ p rest ops, s.trace = p :: rest ∧ execAll ops { s with trace := rest } = .next t := by
  obtain ⟨p, rest, htrace, ⟨i, _, hi⟩ | ⟨bytes, _, rfl⟩⟩ := step_cases h
  · exact ⟨p, rest, [i], htrace, execAll_cons_next hi⟩
  · exact ⟨p, rest, bytes.map .byte, htrace, execAll_bytes bytes _⟩

/-- A property that every operation keeps and that does not look at the run is kept by every step. -/
theorem step_keeps {P : State → Prop} (hexec : ∀ (i : Instr) (s t : State), P s → exec i s = .next t → P t)
    (htrace : ∀ (s : State) (rest : List Packet), P s → P { s with trace := rest })
    {s t : State} (hs : P s) (h : step s = .next t) : P t := by
  obtain ⟨_, rest, _, _, hops⟩ := step_execAll h
  exact execAll_keeps hexec (htrace s rest hs) hops

end Sys2Proof.Machine

end

/-! ## What an operation does to each part of the state -/

section

namespace Sys2Proof.Machine

/-- Neither the configuration nor the rest of the run changes, and results are only added (R22). -/
theorem exec_cfg_trace_results {s t : State} {i : Instr} (h : exec i s = .next t) :
    t.cfg = s.cfg ∧ t.trace = s.trace ∧ s.results <+: t.results := by
  cases exec_effect h with
  | frame => exact ⟨rfl, rfl, List.prefix_append _ _⟩
  | mainLoop _ hu =>
    cases hu with
    | read | takeSome | takeNone => exact ⟨rfl, rfl, List.prefix_append _ _⟩
    | _ => exact ⟨rfl, rfl, List.prefix_rfl⟩
  | _ => exact ⟨rfl, rfl, List.prefix_rfl⟩

theorem exec_cfg {s t : State} {i : Instr} (h : exec i s = .next t) : t.cfg = s.cfg :=
  (exec_cfg_trace_results h).1

/-- The registers of a channel change only in its two handlers and at `RESET` (R13 to R16). -/
theorem exec_channel_cases {s t : State} {i : Instr} (ch : Channel) (h : exec i s = .next t) :
    i = .reset ∨
    (channelPresent s.cfg.chPresent ch = true ∧
      (i = .rise ch ∧ t.width = s.width ∨
        i = .fall ch ∧ s.armed.get ch = true ∧ t.width.get ch = elapsed s.now (s.start.get ch))) ∨
    (t.start.get ch = s.start.get ch ∧ t.armed.get ch = s.armed.get ch ∧ t.width.get ch = s.width.get ch) := by
  cases exec_effect h with
  | reset => exact .inl rfl
  | rise c hp =>
    by_cases hc : ch = c
    · subst hc
      exact .inr (.inl ⟨hp, .inl ⟨rfl, rfl⟩⟩)
    · simp [PerChannel.get_set_ne _ _ hc]
  | fallArmed c hp ha =>
    by_cases hc : ch = c
    · subst hc
      exact .inr (.inl ⟨hp, .inr ⟨rfl, ha, by simp⟩⟩)
    · simp [PerChannel.get_set_ne _ _ hc]
  | mainLoop _ hu => cases hu <;> exact .inr (.inr ⟨rfl, rfl, rfl⟩)
  | _ => exact .inr (.inr ⟨rfl, rfl, rfl⟩)

/-- The mode is decided by `MODE`, directly or at phase 0, and reset by `RESET` (R17, R158). -/
theorem exec_mode_cases {s t : State} {i : Instr} (h : exec i s = .next t) :
    t.mode = s.mode ∨ i = .reset ∨ Performs .mode 0 s i := by
  cases exec_effect h with
  | reset => exact .inr (.inl rfl)
  | mainLoop _ hu =>
    cases hu with
    | decideMode hi => exact .inr (.inr hi)
    | _ => exact .inl rfl
  | _ => exact .inl rfl

/-- The output registers are written by a commit of an issued command, and by `RESET` (R19, R142). -/
theorem exec_act_cases {s t : State} {i : Instr} (h : exec i s = .next t) :
    t.act = s.act ∨ (i = .reset ∧ t.act = State.reset.act) ∨
    (Performs .actwr 3 s i ∧ s.cmd.issue = true ∧ t.act = ⟨s.cmd.steer, s.cmd.throttle⟩) := by
  cases exec_effect h with
  | reset => exact .inr (.inl ⟨rfl, rfl⟩)
  | mainLoop _ hu =>
    cases hu with
    | commit hi =>
      rcases commit_act_cases s with ⟨hissue, hact⟩ | ⟨_, hact⟩
      · exact .inr (.inr ⟨hi, hissue, hact⟩)
      · exact .inl hact
    | _ => exact .inl rfl
  | _ => exact .inl rfl

/-- `seq` after any operation (R20, R157). -/
theorem exec_seq {s t : State} {i : Instr} (h : exec i s = .next t) :
    t.seq = if i = .reset then 0 else seqAfter s i := by
  cases exec_effect h with
  | receive _ hi =>
    cases i with
    | byte | lineS | lineN | lineD => rfl
    | _ => cases hi
  | mainLoop hi _ =>
    cases i with
    | reset => cases hi
    | _ => rfl
  | _ => rfl

theorem nextPhase_val (p : Fin 7) : (nextPhase p).val = (p.val + 1) % 7 := by
  revert p
  decide

/-- The buffer is written by the serial handler, cleared by `TAKE` and emptied by `RESET` (R25). -/
theorem exec_rx_cases {s t : State} {i : Instr} (h : exec i s = .next t) :
    t.rx = s.rx ∨ t.rx = { buf := [], complete := false } ∨
    ∃ bytes, t.rx = s.rx.acceptAll s.cfg.bufCap bytes := by
  cases exec_effect h with
  | reset => exact .inr (.inl rfl)
  | receive bytes _ => exact .inr (.inr ⟨bytes, rfl⟩)
  | mainLoop _ hu =>
    cases hu with
    | takeSome => exact .inr (.inl rfl)
    | _ => exact .inl rfl
  | _ => exact .inl rfl

/-- Reception of bytes writes the buffer only, by appending, and never withdraws `complete` (R24, R171). -/
theorem receiveLine_writesOnlyItsOwn (bytes : List Byte) (s : State) :
    Agent.writesOnlyItsOwn .serialHandler s (receiveLine bytes s) := by
  refine ⟨rfl, ?_, fun hc => ?_⟩ <;> rw [receiveLine_eq, State.withRx_rx, Receiver.acceptAll_eq]
  · exact List.prefix_append _ _
  · simp [hc]

/-- The beacon state is written by its controller and by `RESET` (R27). -/
theorem exec_bcn_cases {s t : State} {i : Instr} (h : exec i s = .next t) :
    t.bcn = s.bcn ∨ t.bcn = State.reset.bcn ∨ t.bcn = s.bcn.advance (s.readWidth .bcn) s.now := by
  cases exec_effect h with
  | reset => exact .inr (.inl rfl)
  | mainLoop _ hu =>
    cases hu with
    | beacon => exact .inr (.inr rfl)
    | _ => exact .inl rfl
  | _ => exact .inl rfl

/-- The siren state is written by its controller and by `RESET` (R28). -/
theorem exec_srn_cases {s t : State} {i : Instr} (h : exec i s = .next t) :
    t.srn = s.srn ∨ t.srn = State.reset.srn ∨ t.srn = s.srn.advance (s.readWidth .srn) s.now := by
  cases exec_effect h with
  | reset => exact .inr (.inl rfl)
  | mainLoop _ hu =>
    cases hu with
    | siren => exact .inr (.inr rfl)
    | _ => exact .inl rfl
  | _ => exact .inl rfl

end Sys2Proof.Machine

end

/-! ## The parts of the machine's invariant, each kept by every operation -/

section

namespace Sys2Proof.Safety

open Sys2Proof.Machine

/-! ### Outputs and latch (R106, R123, R144) -/

/-- The pair of a command is in the actuator range (R18). -/
def CommandInRange (c : Command) : Prop := InActuatorRange c.steer ∧ InActuatorRange c.throttle

theorem inActuatorRange_of_le {w lo hi : Word} (hlo : 1000 ≤ lo) (hhi : hi ≤ 2000) (h : lo ≤ w ∧ w ≤ hi) :
    InActuatorRange w :=
  ⟨BitVec.le_def.mp (BitVec.le_trans hlo h.1), BitVec.le_def.mp (BitVec.le_trans h.2 hhi)⟩

theorem inActuatorRange_1500 : InActuatorRange 1500 := ⟨by decide, by decide⟩

/-- Every pair of the band table is in the actuator range (R116, R123). -/
theorem mapDev_inRange {d : Int} {steer throttle : Word} (h : mapDev d = some (steer, throttle)) :
    InActuatorRange steer ∧ InActuatorRange throttle := by
  have hprop : InActuatorRange (proportionalSteer d) := by
    have hval := proportionalSteer_toNat d
    have hclamp := clampInt_range (1500 - 40 * d) (lo := 1400) (hi := 1600) (by omega)
    unfold InActuatorRange
    omega
  rcases mapDev_cases d with ⟨_, _, hd⟩ | ⟨_, _, hd⟩ | ⟨_, _, hd⟩ | ⟨_, _, hd⟩ | ⟨_, _, hd⟩ | ⟨_, _, hd⟩ | ⟨_, hd⟩ |
    ⟨_, hd⟩ | ⟨_, hd⟩ <;> cases hd.symm.trans h
  · exact ⟨hprop, by decide, by decide⟩
  · exact ⟨hprop, by decide, by decide⟩
  all_goals exact ⟨⟨by decide, by decide⟩, by decide, by decide⟩

/-- Whatever the policy leaves in the latch is in range, a held pair included (R123). -/
theorem policy_inRange {cfg : Config} (hcfg : cfg.Legal) (p : ParsedCommand) {c : Command} (hc : CommandInRange c) :
    CommandInRange (policy cfg p c) := by
  obtain ⟨-, -, -, ⟨hstopLo, hstopHi⟩, -⟩ := hcfg
  rcases policy_cases cfg p c with ⟨d, _, h⟩ | ⟨_, h⟩ | ⟨_, h⟩ <;> rw [h]
  · rcases policyDeviation_cases cfg d c with ⟨steer, throttle, hmap, hd⟩ | ⟨_, hd⟩ <;> rw [hd]
    · exact mapDev_inRange hmap
    · unfold deviationZero
      split
      · exact hc
      · exact ⟨inActuatorRange_1500, inActuatorRange_1500⟩
  · exact ⟨inActuatorRange_1500, inActuatorRange_of_le (by decide) (by decide) ⟨hstopLo, hstopHi⟩⟩
  · exact hc

theorem exec_keeps_commandInRange {s t : State} {i : Instr} (hcfg : s.cfg.Legal) (hs : CommandInRange s.cmd)
    (h : exec i s = .next t) : CommandInRange t.cmd := by
  cases exec_effect h with
  | reset => exact ⟨inActuatorRange_1500, inActuatorRange_1500⟩
  | mainLoop _ hu =>
    cases hu with
    | manualThrottle =>
      obtain ⟨⟨hlo, _⟩, hle, ⟨_, hhi⟩, _⟩ := hcfg
      exact ⟨hs.1, inActuatorRange_of_le hlo hhi (clamp_range _ hle)⟩
    | manualSteer => exact ⟨inActuatorRange_of_le (by decide) (by decide) (clamp_range _ (by decide)), hs.2⟩
    | policy p => exact policy_inRange hcfg p hs
    | takeSome => exact policy_inRange hcfg _ hs
    | _ => exact hs
  | _ => exact hs

theorem exec_keeps_actuatorsInRange (i : Instr) (s t : State) (hs : ActuatorsInRange s) (h : exec i s = .next t) :
    ActuatorsInRange t := by
  obtain ⟨hcfg, hsteer, hthrottle, hcmd⟩ := hs
  have hcfg' : t.cfg.Legal := exec_cfg h ▸ hcfg
  have hact : InActuatorRange t.act.steer ∧ InActuatorRange t.act.throttle := by
    rcases exec_act_cases h with ht | ⟨_, ht⟩ | ⟨_, _, ht⟩ <;> rw [ht]
    · exact ⟨hsteer, hthrottle⟩
    · exact ⟨inActuatorRange_1500, inActuatorRange_1500⟩
    · exact hcmd
  exact ⟨hcfg', hact.1, hact.2, exec_keeps_commandInRange hcfg hcmd h⟩

/-! ### The command buffer (R25, R171, R172) -/

/-- Bytes received into a buffer that is within its capacity and holds no terminator leave such a buffer. -/
theorem acceptAll_keeps_capacity {cap : Nat} {r : Receiver} (bytes : List Byte)
    (hr : r.buf.length ≤ cap ∧ lineTerm ∉ r.buf) :
    (r.acceptAll cap bytes).buf.length ≤ cap ∧ lineTerm ∉ (r.acceptAll cap bytes).buf := by
  rw [Receiver.acceptAll_eq]
  constructor
  · simp only [List.length_append, List.length_take]
    omega
  · rw [List.mem_append, not_or]
    refine ⟨hr.2, fun hmem => ?_⟩
    simpa using (List.mem_filter.mp (List.mem_of_mem_take hmem)).2

theorem exec_keeps_bufferWithinCapacity (i : Instr) (s t : State) (hs : BufferWithinCapacity s)
    (h : exec i s = .next t) : BufferWithinCapacity t := by
  unfold BufferWithinCapacity
  rw [exec_cfg h]
  rcases exec_rx_cases h with ht | ht | ⟨bytes, ht⟩ <;> rw [ht]
  · exact hs
  · simp
  · exact acceptAll_keeps_capacity bytes hs

/-! ### Beacon and siren (R27, R28, R181, R182) -/

theorem exec_keeps_beaconOneColour (i : Instr) (s t : State) (hs : BeaconOneColour s) (h : exec i s = .next t) :
    BeaconOneColour t := by
  unfold BeaconOneColour
  rcases exec_bcn_cases h with ht | ht | ht <;> rw [ht]
  · exact hs
  · simp [State.reset]
  · rcases s.bcn.advance_cases (s.readWidth .bcn) s.now with ⟨_, hb⟩ | ⟨_, _, _, _, ⟨_, hb⟩ | ⟨_, hb⟩⟩ <;> simp [hb]

/-- One 10 Hz step upwards from below the upper bound, or downwards from above the lower one, stays in the sweep, and
the direction turns where the bound is reached. -/
theorem exec_keeps_sirenInSweep (i : Instr) (s t : State) (hs : SirenInSweep s) (h : exec i s = .next t) :
    SirenInSweep t := by
  obtain ⟨k, hk, hfreq, htop, hbottom⟩ := hs
  unfold SirenInSweep
  rcases exec_srn_cases h with ht | ht | ht <;> rw [ht]
  · exact ⟨k, hk, hfreq, htop, hbottom⟩
  · exact ⟨0, by decide, by decide, by decide, by decide⟩
  · rcases s.srn.advance_cases (s.readWidth .srn) s.now with ⟨_, hf⟩ | ⟨_, _, hf⟩ | ⟨_, _, hdir, hf⟩ |
      ⟨_, _, hdir, hf⟩ <;> rw [hf]
    · exact ⟨k, hk, hfreq, htop, hbottom⟩
    · exact ⟨k, hk, hfreq, htop, hbottom⟩
    · have hlt : k ≠ 50 := fun hk50 => by simp [htop hk50] at hdir
      refine ⟨k + 1, by omega, by simp only [hfreq]; omega, fun hk50 => if_pos ?_, by omega⟩
      simp only [hfreq, Config.sirenFHi]
      omega
    · have hpos : k ≠ 0 := fun hk0 => by simp [hbottom hk0] at hdir
      refine ⟨k - 1, by omega, by simp only [hfreq]; omega, by omega, fun hk0 => if_pos ?_⟩
      simp only [hfreq, Config.sirenFLo]
      omega

/-! ### Absent channels (R12, R87) -/

/-- The registers of a channel are at their reset values (R13 to R15, R31). -/
def ChannelAtReset (ch : Channel) (s : State) : Prop :=
  s.start.get ch = 0 ∧ s.armed.get ch = false ∧ s.width.get ch = 1500

theorem channelAtReset_reset (ch : Channel) : ChannelAtReset ch State.reset := by
  cases ch <;> exact ⟨rfl, rfl, rfl⟩

/-- No operation writes the registers of an absent channel but `RESET`. -/
theorem exec_keeps_channelAtReset {s t : State} {i : Instr} {ch : Channel}
    (habsent : channelPresent s.cfg.chPresent ch = false) (hs : ChannelAtReset ch s) (h : exec i s = .next t) :
    ChannelAtReset ch t := by
  rcases exec_channel_cases ch h with rfl | ⟨hpresent, _⟩ | ⟨hstart, harmed, hwidth⟩
  · cases h
    exact channelAtReset_reset ch
  · simp [habsent] at hpresent
  · unfold ChannelAtReset
    rwa [hstart, harmed, hwidth]

theorem exec_keeps_absentChannelsAtReset (i : Instr) (s t : State) (hs : AbsentChannelsAtReset s)
    (h : exec i s = .next t) : AbsentChannelsAtReset t := by
  intro ch habsent
  rw [exec_cfg h] at habsent
  exact exec_keeps_channelAtReset habsent (hs ch habsent) h

/-! ### The whole invariant -/

theorem exec_keeps_machineInv (i : Instr) (s t : State) (hs : MachineInv s) (h : exec i s = .next t) :
    MachineInv t where
  actuators := exec_keeps_actuatorsInRange i s t hs.actuators h
  buffer := exec_keeps_bufferWithinCapacity i s t hs.buffer h
  beacon := exec_keeps_beaconOneColour i s t hs.beacon h
  siren := exec_keeps_sirenInSweep i s t hs.siren h
  absent := exec_keeps_absentChannelsAtReset i s t hs.absent h

/-- The configuration of this hardware is legal whatever its open parameters are (R7, R22). -/
theorem thisHardware_legal : Config.thisHardware.Legal := by
  refine ⟨by decide, by decide, by decide, by decide, Nat.le_add_left _ _, ?_, ?_⟩
  · have hlit : (2000 : Word).toNat = 2000 := rfl
    rw [Config.thisHardware, BitVec.lt_def, BitVec.toNat_ofNat, hlit]
    omega
  · simp only [Config.thisHardware]
    split <;> simp_all

end Sys2Proof.Safety

end

/-! ## The statements about the state -/

section

open Sys2Proof Sys2Proof.Machine Sys2Proof.Safety

namespace Sys2Proof.Proofs

/-- Settles O55: every part of the invariant is kept by every operation, and none looks at the run. -/
theorem everyStepKeepsTheInvariant : Obligations.EveryStepKeepsTheInvariant := by
  intro s t hs h
  refine step_keeps exec_keeps_machineInv (fun s rest hs => ?_) hs h
  exact ⟨hs.actuators, hs.buffer, hs.beacon, hs.siren, hs.absent⟩

/-- Settles O54, part by part; only the configuration holds values that are not literals. -/
theorem invariantHoldsAtReset : Obligations.InvariantHoldsAtReset where
  actuators := ⟨thisHardware_legal, inActuatorRange_1500, inActuatorRange_1500, inActuatorRange_1500,
    inActuatorRange_1500⟩
  buffer := ⟨Nat.zero_le _, List.not_mem_nil⟩
  beacon := ⟨by decide, rfl⟩
  siren := ⟨0, by decide, by decide, by decide, by decide⟩
  absent := fun ch _ => channelAtReset_reset ch

/-- Settles O9: one packet leaves the run, and the operations performed for it touch neither the rest nor `cfg`. -/
theorem stepTakesOnePacketAndKeepsConfiguration : Obligations.StepTakesOnePacketAndKeepsConfiguration := by
  intro s t h
  obtain ⟨p, rest, ops, htrace, hops⟩ := step_execAll h
  have hkept : t.cfg = s.cfg ∧ t.trace = rest ∧ s.results <+: t.results :=
    execAll_keeps (s := { s with trace := rest })
      (P := fun u => u.cfg = s.cfg ∧ u.trace = rest ∧ s.results <+: u.results)
      (fun _ _ _ ⟨hcfg, hrun, hres⟩ hu =>
        have ⟨hcfg', hrun', hres'⟩ := exec_cfg_trace_results hu
        ⟨hcfg'.trans hcfg, hrun'.trans hrun, hres.trans hres'⟩)
      ⟨rfl, rfl, List.prefix_rfl⟩ hops
  obtain ⟨hcfg, hrun, hres⟩ := hkept
  exact ⟨⟨p, hrun ▸ htrace⟩, hcfg, hres⟩

/-- Settles O18: nothing but the falling edge of an armed pin and `RESET` reaches a width. -/
theorem onlyFallOrResetChangesAWidth : Obligations.OnlyFallOrResetChangesAWidth := by
  intro i ch s t h hne
  rcases exec_channel_cases ch h with hi | ⟨_, ⟨_, hwidth⟩ | ⟨hi, harmed, hwidth⟩⟩ | ⟨_, _, hwidth⟩
  · exact .inr hi
  · exact absurd (by rw [hwidth]) hne
  · exact .inl ⟨hi, harmed, hwidth⟩
  · exact absurd hwidth hne

/-- Settles O19: a handler runs only for a channel that is present, so only `RESET` reaches an absent one's registers. -/
theorem absentChannelKeepsItsResetValues : Obligations.AbsentChannelKeepsItsResetValues := by
  intro s t ch habsent hstart harmed hwidth h
  refine step_keeps (P := fun u => channelPresent u.cfg.chPresent ch = false ∧ ChannelAtReset ch u)
    (fun i u v ⟨hu, hreset⟩ hv => ?_) (fun _ _ hu => hu) ⟨habsent, hstart, harmed, hwidth⟩ h
  exact ⟨exec_cfg hv ▸ hu, exec_keeps_channelAtReset hu hreset hv⟩

/-- Settles O29: a commit without `cmd.issue` writes the registers back as they were. -/
theorem outputsHoldWithoutAnIssuedCommand : Obligations.OutputsHoldWithoutAnIssuedCommand := by
  intro i s t h hne
  rcases exec_act_cases h with hact | ⟨hi, _⟩ | ⟨hi, hissue, hact⟩
  · exact absurd hact hne
  · exact .inl hi
  · exact .inr ⟨hissue, hact, hi⟩

/-- Settles O32. -/
theorem onlyStepAndResetMoveThePhase : Obligations.OnlyStepAndResetMoveThePhase := by
  intro i s t h
  rw [exec_seq h]
  cases i with
  | step => exact nextPhase_val s.seq
  | _ => rfl

/-- Settles O33: `STEP` decides the mode at the phase that performs `MODE`. -/
theorem modeIsDecidedOncePerIteration : Obligations.ModeIsDecidedOncePerIteration := by
  intro i s t h hne
  rcases exec_mode_cases h with hmode | hi | hi | hi
  · exact absurd hmode hne
  · exact .inr (.inr hi)
  · exact .inl hi
  · exact .inr (.inl hi)

/-- Settles O50: the reset state meets the property and every operation keeps it. -/
theorem beaconNeverShowsBothColours : Obligations.BeaconNeverShowsBothColours := by
  refine ⟨fun s => ⟨_, rfl, invariantHoldsAtReset.beacon⟩, fun s t hs h => ?_⟩
  exact step_keeps exec_keeps_beaconOneColour (fun _ _ hs => hs) hs h

/-- Settles O52: the reset state meets the property and every operation keeps it. -/
theorem sirenStaysInItsSweep : Obligations.SirenStaysInItsSweep := by
  refine ⟨fun s => ⟨_, rfl, invariantHoldsAtReset.siren⟩, fun s t hs h => ?_⟩
  exact step_keeps exec_keeps_sirenInSweep (fun _ _ hs => hs) hs h

/-- Settles O53, agent by agent. -/
theorem agentsWriteOnlyTheirOwnState : Obligations.AgentsWriteOnlyTheirOwnState := by
  intro i s t hne h
  cases exec_effect h with
  | reset => exact absurd rfl hne
  | tick => exact rfl
  | rise ch => simp [agentOf, Agent.writesOnlyItsOwn, State.writeStart, State.writeArmed]
  | fallArmed ch => simp [agentOf, Agent.writesOnlyItsOwn, State.writeWidth, State.writeArmed]
  | fallUnarmed ch => simp [agentOf, Agent.writesOnlyItsOwn]
  | receive bytes hi => exact hi ▸ receiveLine_writesOnlyItsOwn bytes s
  | frame => exact ⟨rfl, List.prefix_append _ _⟩
  | mainLoop hi hu =>
    rw [hi]
    cases hu with
    | takeSome => exact ⟨rfl, .inr rfl, List.prefix_append _ _⟩
    | read | takeNone => exact ⟨rfl, .inl rfl, List.prefix_append _ _⟩
    | _ => exact ⟨rfl, .inl rfl, List.prefix_rfl⟩

end Sys2Proof.Proofs

end

/-! ## The registers of one channel as a unit, and the operations that leave them alone (R13 to R15, R57)

What a handler leaves is a function of the time and of its channel's three registers (`exec_handler`), so it commutes
with every operation that ignores those registers. -/

section

namespace Sys2Proof.Machine

/-- The three registers of one channel (R13 to R15). -/
structure Capture where
  start : Word
  armed : Bool
  width : Word

/-- The registers of the channel `ch`. -/
def State.capture (s : State) (ch : Channel) : Capture :=
  ⟨s.start.get ch, s.armed.get ch, s.width.get ch⟩

/-- The state with other values in the registers of the channel `ch`. -/
def State.withCapture (s : State) (ch : Channel) (r : Capture) : State :=
  { s with start := s.start.set ch r.start, armed := s.armed.set ch r.armed, width := s.width.set ch r.width }

theorem State.withCapture_capture (s : State) (ch : Channel) : s.withCapture ch (s.capture ch) = s := by
  simp [State.withCapture, State.capture]

theorem State.capture_withCapture_ne (s : State) {a b : Channel} (r : Capture) (h : a ≠ b) :
    (s.withCapture b r).capture a = s.capture a := by
  simp [State.capture, State.withCapture, PerChannel.get_set_ne _ _ h]

theorem State.withCapture_comm (s : State) {a b : Channel} (q r : Capture) (h : a ≠ b) :
    (s.withCapture a q).withCapture b r = (s.withCapture b r).withCapture a q := by
  simp [State.withCapture, PerChannel.set_comm _ _ _ h]

theorem State.readWidth_withCapture_ne (s : State) {a c : Channel} (r : Capture) (h : a ≠ c) :
    (s.withCapture a r).readWidth c = s.readWidth c :=
  PerChannel.get_set_ne _ _ h.symm

/-- `i` is one of the two handlers of the channel `a` (R63). -/
def IsHandlerOf (a : Channel) (i : Instr) : Prop := i = .rise a ∨ i = .fall a

/-- What the handler `i` makes of its channel's registers at the time `now` (R81, R82). -/
def Capture.edge (i : Instr) (now : Word) (r : Capture) : Capture :=
  match i with
  | .rise _ => { r with start := now, armed := true }
  | .fall _ => if r.armed then { r with armed := false, width := elapsed now r.start } else r
  | _ => r

/-- A handler reads the time and its channel's registers, and writes those registers only (R81, R82, R85). -/
theorem exec_handler {a : Channel} {i : Instr} {s : State} (hi : IsHandlerOf a i)
    (hp : channelPresent s.cfg.chPresent a = true) :
    exec i s = .next (s.withCapture a ((s.capture a).edge i s.now)) := by
  obtain rfl | rfl := hi
  · rw [exec, execRise, onPin_present _ hp]
    simp [Capture.edge, State.capture, State.withCapture, State.writeStart, State.writeArmed]
  · rw [exec, execFall, onPin_present _ hp]
    cases ha : s.armed.get a
    · have hedge : (s.capture a).edge (.fall a) s.now = s.capture a := by simp [Capture.edge, State.capture, ha]
      rw [hedge, s.withCapture_capture]
      rfl
    · have hedge : (s.capture a).edge (.fall a) s.now =
          ⟨s.start.get a, false, elapsed s.now (s.start.get a)⟩ := by simp [Capture.edge, State.capture, ha]
      rw [hedge]
      simp [State.withCapture, State.writeWidth, State.writeArmed]

/-- From `s` the operation `j` leaves `t`, and it neither reads nor writes the registers of the channel `a`, nor
writes the time. -/
structure Ignores (a : Channel) (j : Instr) (s t : State) : Prop where
  runs : exec j s = .next t
  now_eq : t.now = s.now
  capture_eq : t.capture a = s.capture a
  runs_withCapture : ∀ r, exec j (s.withCapture a r) = .next (t.withCapture a r)

/-- Two operations that lead to one state in either order. -/
theorem execAll_pair_comm {i j : Instr} {s t u v : State} (hi : exec i s = .next t) (hij : exec j t = .next v)
    (hj : exec j s = .next u) (hji : exec i u = .next v) :
    (∃ w, execAll [i, j] s = .next w) ∧ execAll [i, j] s = execAll [j, i] s := by
  have hl : execAll [i, j] s = .next v := (execAll_cons_next hi).trans (execAll_cons_next hij)
  have hr : execAll [j, i] s = .next v := (execAll_cons_next hj).trans (execAll_cons_next hji)
  exact ⟨⟨v, hl⟩, hl.trans hr.symm⟩

/-- A handler commutes with an operation that ignores its channel (R57). -/
theorem Ignores.handler_comm {a : Channel} {i j : Instr} {s t : State} (h : Ignores a j s t) (hi : IsHandlerOf a i)
    (hp : channelPresent s.cfg.chPresent a = true) :
    (∃ w, execAll [i, j] s = .next w) ∧ execAll [i, j] s = execAll [j, i] s := by
  have hpt : channelPresent t.cfg.chPresent a = true := exec_cfg h.runs ▸ hp
  have hit : exec i t = .next (t.withCapture a ((s.capture a).edge i s.now)) := by
    rw [exec_handler hi hpt, h.capture_eq, h.now_eq]
  exact execAll_pair_comm (exec_handler hi hp) (h.runs_withCapture _) h.runs hit

/-- A handler ignores every channel but its own. -/
theorem ignores_of_handler {a b : Channel} {j : Instr} {s : State} (hab : a ≠ b) (hj : IsHandlerOf b j)
    (hp : channelPresent s.cfg.chPresent b = true) : ∃ t, Ignores a j s t := by
  refine ⟨_, exec_handler hj hp, rfl, s.capture_withCapture_ne _ hab, fun r => ?_⟩
  rw [exec_handler (s := s.withCapture a r) hj hp, s.capture_withCapture_ne r hab.symm, s.withCapture_comm _ _ hab]
  rfl

/-! ### The main-loop operations on other values in a channel's registers -/

theorem decideMode_withCapture (s : State) {a : Channel} (r : Capture) (h : a ≠ .mode) :
    decideMode (s.withCapture a r) = (decideMode s).withCapture a r := by
  rw [decideMode, s.readWidth_withCapture_ne r h]
  rfl

theorem manualThrottle_withCapture (s : State) {a : Channel} (r : Capture) (h : a ≠ .thr) :
    manualThrottle (s.withCapture a r) = (manualThrottle s).withCapture a r := by
  rw [manualThrottle, s.readWidth_withCapture_ne r h]
  rfl

theorem manualSteer_withCapture (s : State) {a : Channel} (r : Capture) (h : a ≠ .steer) :
    manualSteer (s.withCapture a r) = (manualSteer s).withCapture a r := by
  rw [manualSteer, s.readWidth_withCapture_ne r h]
  rfl

theorem controlBeacon_withCapture (s : State) {a : Channel} (r : Capture) (h : a ≠ .bcn) :
    controlBeacon (s.withCapture a r) = (controlBeacon s).withCapture a r := by
  rw [controlBeacon, s.readWidth_withCapture_ne r h]
  rfl

theorem controlSiren_withCapture (s : State) {a : Channel} (r : Capture) (h : a ≠ .srn) :
    controlSiren (s.withCapture a r) = (controlSiren s).withCapture a r := by
  rw [controlSiren, s.readWidth_withCapture_ne r h]
  rfl

theorem takeLine_withCapture (s : State) (a : Channel) (r : Capture) :
    takeLine (s.withCapture a r) = (takeLine s).withCapture a r := by
  simp only [takeLine, apply_ite (State.withCapture · a r)]
  rfl

/-- A phase whose operation does not read the channel's width (R156). -/
theorem performPhase_withCapture (s : State) {a : Channel} (r : Capture) (h : a ∉ widthsRead .step s) :
    performPhase (s.withCapture a r) = (performPhase s).withCapture a r := by
  have hseq : (s.withCapture a r).seq = s.seq := rfl
  have hmode : (s.withCapture a r).mode = s.mode := rfl
  unfold performPhase
  unfold widthsRead at h
  rw [hseq, hmode]
  generalize s.seq = p at h ⊢
  generalize s.mode = m at h ⊢
  match p, m with
  | 0, _ => exact decideMode_withCapture s r (List.ne_of_not_mem_cons h)
  | 1, .manual => exact manualThrottle_withCapture s r (List.ne_of_not_mem_cons h)
  | 1, .autonomous => exact takeLine_withCapture s a r
  | 2, .manual => exact manualSteer_withCapture s r (List.ne_of_not_mem_cons h)
  | 2, .autonomous => rfl
  | 3, _ => rfl
  | 4, _ => rfl
  | 5, _ => exact controlBeacon_withCapture s r (List.ne_of_not_mem_cons h)
  | 6, _ => exact controlSiren_withCapture s r (List.ne_of_not_mem_cons h)

/-- A main-loop operation that does not read a channel's width does the same whatever the channel's registers hold. -/
theorem exec_mainLoop_withCapture {a : Channel} {j : Instr} {s : State} (hj : agentOf j = .mainLoop)
    (h : a ∉ widthsRead j s) :
    ∃ t, exec j s = .next t ∧ ∀ r, exec j (s.withCapture a r) = .next (t.withCapture a r) := by
  cases j with
  | read ch =>
    refine ⟨_, rfl, fun r => ?_⟩
    rw [exec, execRead, s.readWidth_withCapture_ne r (List.ne_of_not_mem_cons h)]
    rfl
  | mode => exact ⟨_, rfl, fun r => congrArg _ (decideMode_withCapture s r (List.ne_of_not_mem_cons h))⟩
  | mant => exact ⟨_, rfl, fun r => congrArg _ (manualThrottle_withCapture s r (List.ne_of_not_mem_cons h))⟩
  | mans => exact ⟨_, rfl, fun r => congrArg _ (manualSteer_withCapture s r (List.ne_of_not_mem_cons h))⟩
  | bcn => exact ⟨_, rfl, fun r => congrArg _ (controlBeacon_withCapture s r (List.ne_of_not_mem_cons h))⟩
  | srn => exact ⟨_, rfl, fun r => congrArg _ (controlSiren_withCapture s r (List.ne_of_not_mem_cons h))⟩
  | take => exact ⟨_, rfl, fun r => congrArg _ (takeLine_withCapture s a r)⟩
  | step =>
    refine ⟨_, rfl, fun r => ?_⟩
    rw [exec, execStep, performPhase_withCapture s r h]
    rfl
  | mapdev | mapstop | mapunr | mapnone | actwr | ind => exact ⟨_, rfl, fun _ => rfl⟩
  | tick | rise | fall | frame | reset | byte | lineS | lineN | lineD => cases hj

/-- A main-loop operation ignores every channel whose width it does not read (R24, R57). -/
theorem ignores_of_mainLoop {a : Channel} {j : Instr} {s : State} (hj : agentOf j = .mainLoop)
    (h : a ∉ widthsRead j s) : ∃ t, Ignores a j s t := by
  obtain ⟨t, hrun, hwith⟩ := exec_mainLoop_withCapture hj h
  have hown := Proofs.agentsWriteOnlyTheirOwnState j s t (by rintro rfl; cases hj) hrun
  rw [hj] at hown
  obtain ⟨ht, _, _⟩ := hown
  exact ⟨t, hrun, by rw [ht], by rw [ht]; rfl, hwith⟩

/-! ### A second `TAKE` -/

/-- After `TAKE` no line is complete (R174). -/
theorem takeLine_complete (s : State) : (takeLine s).rx.complete = false := by
  rcases takeLine_cases s with ⟨_, h⟩ | ⟨hc, h⟩ <;> rw [h]
  exact hc

/-- `TAKE` with no complete line (R122, R174). -/
theorem takeLine_of_not_complete {s : State} (h : s.rx.complete = false) :
    takeLine s = { s with cmd := policyNone s.cmd, results := s.results ++ [.taken none] } := by
  rcases takeLine_cases s with ⟨hc, _⟩ | ⟨_, ht⟩
  · rw [h] at hc
    cases hc
  · exact ht

end Sys2Proof.Machine

end

/-! ## The statements about interleaving, the receiver and the step -/

section

open Sys2Proof Sys2Proof.Machine

namespace Sys2Proof.Proofs

/-- Settles O16: the operation performed beside the handler ignores the handler's channel. -/
theorem handlersCommute : Obligations.HandlersCommute := by
  constructor
  · intro a b i j s hab ha hb hi hj
    obtain ⟨t, ht⟩ := ignores_of_handler hab hj hb
    exact ht.handler_comm hi ha
  · intro a i j s ha hi hj hread
    obtain ⟨t, ht⟩ := ignores_of_mainLoop hj hread
    exact ht.handler_comm hi ha

/-- Settles O44: the first digit is what has been read when the rest begins. -/
theorem decimalIsThePlaceValue : Obligations.DecimalIsThePlaceValue := by
  refine ⟨rfl, fun d ds => ?_⟩
  rw [decimal, List.foldl_cons, decimal_foldl, Nat.mul_zero, Nat.zero_add]

/-- Settles O6. -/
theorem stepRunsTheDecodedOperation : Obligations.StepRunsTheDecodedOperation :=
  fun _ _ _ _ htrace hop => step_op htrace hop

/-- Settles O41: the first `TAKE` leaves no complete line, so the second does what R122 says. -/
theorem secondTakeReturnsEmpty : Obligations.SecondTakeReturnsEmpty :=
  fun s => ⟨takeLine s, rfl, congrArg _ (takeLine_of_not_complete (takeLine_complete s))⟩

end Sys2Proof.Proofs

end

/-! ## Encoding: what a packet spells

`CodeShape` lists what an operation code makes of the rest of its descriptor, row group by row group (R62, R63), and
`decodeFields_shape` ties it to `decodeFields`.  A command line is white space around a bare text (R69, R175). -/

section

namespace Sys2Proof

/-! ### The fields of a descriptor as numbers, and its operands (R61, R64, R66) -/

/-- The fields of a descriptor as numbers (R61). -/
theorem opField_toNat (w : BitVec 48) : (opField w).toNat = w.toNat / 2 ^ 40 := by
  rw [opField, BitVec.extractLsb'_toNat, Nat.shiftRight_eq_div_pow]
  omega

theorem argField_toNat (w : BitVec 48) : (argField w).toNat = w.toNat / 2 ^ 32 % 2 ^ 8 := by
  rw [argField, BitVec.extractLsb'_toNat, Nat.shiftRight_eq_div_pow]

theorem immField_toNat (w : BitVec 48) : (immField w).toNat = w.toNat % 2 ^ 32 := by
  rw [immField, BitVec.extractLsb'_toNat, Nat.shiftRight_zero]

theorem channelArg_toNat (ch : Channel) : (channelArg ch).toNat = channelIndex ch := by
  cases ch <;> rfl

/-- The `arg`s of the channels are the numbers below 5 (R64). -/
theorem exists_channelArg_iff {arg : Byte} {P : Nat → Prop} :
    (∃ ch, arg = channelArg ch ∧ P (channelIndex ch)) ↔ arg.toNat < 5 ∧ P arg.toNat := by
  constructor
  · rintro ⟨ch, rfl, hP⟩
    rw [channelArg_toNat]
    exact ⟨channelIndex_lt ch, hP⟩
  · rintro ⟨hlt, hP⟩
    obtain ⟨ch, hch⟩ : ∃ ch, channelOfIndex arg.toNat = some ch :=
      Option.ne_none_iff_exists'.mp fun hnone => absurd (channelOfIndex_eq_none.mp hnone) (by omega)
    rw [channelOfIndex_eq_some] at hch
    exact ⟨ch, BitVec.eq_of_toNat_eq (by rw [channelArg_toNat, hch]), hch ▸ hP⟩

/-- A channel operand that decodes: `imm` is zero, and `arg` is the number of a channel that the operation admits. -/
theorem decodeChannel_isOk_iff {mk : Channel → Except DecodeError Instr} {P : Nat → Prop} {arg : Byte} {imm : Word}
    (hmk : ∀ ch, (∃ i, mk ch = .ok i) ↔ P (channelIndex ch)) :
    (∃ i, decodeChannel mk arg imm = .ok i) ↔ imm = 0 ∧ arg.toNat < 5 ∧ P arg.toNat := by
  simp only [← exists_channelArg_iff, ← hmk, decodeChannel_eq_ok]
  constructor
  · rintro ⟨i, himm, ch, harg, hi⟩
    exact ⟨himm, ch, harg, i, hi⟩
  · rintro ⟨himm, ch, harg, i, hi⟩
    exact ⟨i, himm, ch, harg, hi⟩

/-- A word is its low byte where no other bit is set (R66). -/
theorem setWidth_low_byte {imm : Word} (h : imm.toNat < 256) : (imm.extractLsb' 0 8).setWidth 32 = imm := by
  apply BitVec.eq_of_toNat_eq
  rw [BitVec.toNat_setWidth, BitVec.extractLsb'_toNat, Nat.shiftRight_zero]
  omega

/-- A byte written as a word is read back from it (R66). -/
theorem extractLsb'_setWidth_byte (b : Byte) : (b.setWidth 32).extractLsb' 0 8 = b := by
  apply BitVec.eq_of_toNat_eq
  rw [BitVec.extractLsb'_toNat, Nat.shiftRight_zero, BitVec.toNat_setWidth]
  omega

/-- The number of a channel decodes to it (R64). -/
theorem decodeChannel_channelArg (mk : Channel → Except DecodeError Instr) (ch : Channel) :
    decodeChannel mk (channelArg ch) 0 = mk ch := by
  cases ch <;> rfl

/-! ### Operation codes (R62, R63) -/

/-- What an operation code makes of `arg` and `imm`: one shape per row group of R62, with the operation that results,
its encoding and the check it leaves open. -/
inductive CodeShape (present : BitVec 5) (op : Byte) : (Byte → Word → Except DecodeError Instr) → Prop
  /-- No operation has the code (R63, R67). -/
  | reserved (hop : op.toNat = 0 ∨ 0x15 ≤ op.toNat) : CodeShape present op (fun _ _ => .error (.reservedOp op))
  /-- Neither `arg` nor `imm` is an operand. -/
  | plain (i : Instr)
      (hop : 0x05 ≤ op.toNat ∧ op.toNat ≤ 0x07 ∨ 0x09 ≤ op.toNat ∧ op.toNat ≤ 0x0F ∨
        0x11 ≤ op.toNat ∧ op.toNat ≤ 0x14)
      (henc : encode i = .opd (descriptor op 0 0)) (hwf : i.wellFormed present = true) :
      CodeShape present op (decodePlain i)
  /-- The operand is `imm`: `TICK`, `MAPDEV`. -/
  | imm (mk : Word → Instr) (hop : op.toNat = 0x01 ∨ op.toNat = 0x08)
      (henc : ∀ v, encode (mk v) = .opd (descriptor op 0 v)) (hwf : ∀ v, (mk v).wellFormed present = true) :
      CodeShape present op (decodeImm mk)
  /-- The operand is a channel that must be present: `RISE`, `FALL`. -/
  | handler (mk : Channel → Instr) (hop : op.toNat = 0x02 ∨ op.toNat = 0x03)
      (henc : ∀ ch, encode (mk ch) = .opd (descriptor op (channelArg ch) 0))
      (hwf : ∀ ch, (mk ch).wellFormed present = channelPresent present ch) :
      CodeShape present op (decodeChannel (decodeHandler present mk))
  | read (hop : op = 0x04) : CodeShape present op (decodeChannel (fun ch => .ok (.read ch)))
  | byte (hop : op = 0x10) : CodeShape present op decodeByte

/-- The rows of R63, each with its shape: arm `n` of the decoder is the code `n`, the last one the reserved codes. -/
theorem decodeFields_shape (present : BitVec 5) (op : Byte) : CodeShape present op (decodeFields present op) := by
  unfold decodeFields
  split
  case h_21 =>
    simp only [imp_false] at *
    exact .reserved (by omega)
  all_goals
    rename_i h
    replace h := congrArg (BitVec.ofNat 8) h
    rw [BitVec.ofNat_toNat, BitVec.setWidth_eq] at h
    subst h
  case h_1 | h_8 => exact .imm _ (by decide) (fun _ => rfl) (fun _ => rfl)
  case h_2 | h_3 => exact .handler _ (by decide) (fun _ => rfl) (fun _ => rfl)
  case h_4 => exact .read rfl
  case h_16 => exact .byte rfl
  all_goals exact .plain _ (by decide) rfl rfl

/-- What a descriptor's fields decode to has those fields in its encoding, and is well formed (R62 to R67). -/
theorem spelling_of_decodeFields {present : BitVec 5} {op arg : Byte} {imm : Word} {i : Instr}
    (h : decodeFields present op arg imm = .ok i) :
    encode i = .opd (descriptor op arg imm) ∧ i.wellFormed present = true := by
  have hshape := decodeFields_shape present op
  generalize decodeFields present op = decode at h hshape
  cases hshape with
  | reserved => cases h
  | plain j _ henc hwf =>
    obtain ⟨rfl, rfl, rfl⟩ := decodePlain_eq_ok.mp h
    exact ⟨henc, hwf⟩
  | imm mk _ henc hwf =>
    obtain ⟨rfl, rfl⟩ := decodeImm_eq_ok.mp h
    exact ⟨henc imm, hwf imm⟩
  | handler mk _ henc hwf =>
    obtain ⟨rfl, ch, rfl, hch⟩ := decodeChannel_eq_ok.mp h
    obtain ⟨hpresent, rfl⟩ := decodeHandler_eq_ok.mp hch
    exact ⟨henc ch, (hwf ch).trans hpresent⟩
  | read hop =>
    obtain ⟨rfl, ch, rfl, hch⟩ := decodeChannel_eq_ok.mp h
    cases hch
    exact ⟨by rw [hop]; rfl, rfl⟩
  | byte hop =>
    obtain ⟨rfl, hlt, rfl⟩ := decodeByte_eq_ok.mp h
    refine ⟨?_, rfl⟩
    rw [encode, hop, setWidth_low_byte hlt]

/-- A descriptor of an operation's fields decodes to what the fields decode to. -/
theorem decodePacket_descriptor {present : BitVec 5} {op arg : Byte} {imm : Word} {i : Instr}
    (h : decodeFields present op arg imm = .ok i) : decodePacket present (.opd (descriptor op arg imm)) = .op i := by
  simp [decodePacket, decodeDescriptor, h]

/-- The fields of an ill-formed descriptor as numbers (R62, R64, R67). -/
def IllFormedFields (present : BitVec 5) (op arg imm : Nat) : Prop :=
  (op = 0 ∨ 0x15 ≤ op) ∨
  ((op = 0x01 ∨ op = 0x08) ∧ arg ≠ 0) ∨
  ((op = 0x02 ∨ op = 0x03 ∨ op = 0x04) ∧ (imm ≠ 0 ∨ 5 ≤ arg)) ∨
  ((op = 0x02 ∨ op = 0x03) ∧ present.getLsbD arg = false) ∨
  (op = 0x10 ∧ (arg ≠ 0 ∨ 256 ≤ imm)) ∨
  ((0x05 ≤ op ∧ op ≤ 0x07 ∨ 0x09 ≤ op ∧ op ≤ 0x0F ∨ 0x11 ≤ op ∧ op ≤ 0x14) ∧ (arg ≠ 0 ∨ imm ≠ 0))

/-- The fields that decode to an operation are those that are not ill formed. -/
theorem decodeFields_isOk_iff (present : BitVec 5) (op arg : Byte) (imm : Word) :
    (∃ i, decodeFields present op arg imm = .ok i) ↔ ¬ IllFormedFields present op.toNat arg.toNat imm.toNat := by
  have hzero (n : Nat) (v : BitVec n) : v = 0 ↔ v.toNat = 0 := BitVec.toNat_eq
  unfold IllFormedFields
  have hshape := decodeFields_shape present op
  generalize decodeFields present op = decode at hshape
  cases hshape with
  | reserved hop => simp [hop]
  | plain j hop =>
    have hok : (∃ i, decodePlain j arg imm = .ok i) ↔ arg.toNat = 0 ∧ imm.toNat = 0 := by
      simp only [decodePlain_eq_ok, exists_and_left, exists_eq, and_true, hzero]
    rw [hok]
    omega
  | imm mk hop =>
    have hok : (∃ i, decodeImm mk arg imm = .ok i) ↔ arg.toNat = 0 := by
      simp only [decodeImm_eq_ok, exists_and_left, exists_eq, and_true, hzero]
    rw [hok]
    omega
  | byte hop =>
    have hok : (∃ i, decodeByte arg imm = .ok i) ↔ arg.toNat = 0 ∧ imm.toNat < 256 := by
      simp only [decodeByte_eq_ok, exists_and_left, exists_eq, and_true, hzero]
    rw [hok, hop]
    simp
  | read hop =>
    have hok : (∃ i, decodeChannel (fun ch => .ok (.read ch)) arg imm = .ok i) ↔ imm.toNat = 0 ∧ arg.toNat < 5 := by
      rw [decodeChannel_isOk_iff (P := fun _ => True) (by simp), and_true, hzero]
    rw [hok, hop]
    simp
  | handler mk hop =>
    have hok : (∃ i, decodeChannel (decodeHandler present mk) arg imm = .ok i) ↔
        imm.toNat = 0 ∧ arg.toNat < 5 ∧ present.getLsbD arg.toNat = true := by
      rw [decodeChannel_isOk_iff (P := fun n => present.getLsbD n = true)
        (by simp [decodeHandler_eq_ok, channelPresent]), hzero]
    rw [hok]
    rcases hop with hop | hop <;> simp [hop, and_assoc]

/-! ### Trace files (R61) -/

/-- Four bytes as a word, the most significant first (R61). -/
theorem append_bytes_toNat (b₃ b₂ b₁ b₀ : Byte) :
    (b₃ ++ b₂ ++ b₁ ++ b₀).toNat = b₃.toNat * 2 ^ 24 + b₂.toNat * 2 ^ 16 + b₁.toNat * 2 ^ 8 + b₀.toNat := by
  rw [BitVec.toNat_append, BitVec.toNat_append, BitVec.toNat_append, ← Nat.shiftLeft_add_eq_or_of_lt b₂.isLt,
    ← Nat.shiftLeft_add_eq_or_of_lt b₁.isLt, ← Nat.shiftLeft_add_eq_or_of_lt b₀.isLt, Nat.shiftLeft_eq,
    Nat.shiftLeft_eq, Nat.shiftLeft_eq]
  omega

/-- The bytes of a descriptor: its first two fields, then its third, most significant byte first (R61). -/
theorem descriptorBytes_descriptor (op arg b₃ b₂ b₁ b₀ : Byte) :
    descriptorBytes (descriptor op arg (b₃ ++ b₂ ++ b₁ ++ b₀)) = [op, arg, b₃, b₂, b₁, b₀] := by
  simp only [descriptorBytes, List.cons.injEq, and_true]
  refine ⟨?_, ?_, ?_, ?_, ?_, ?_⟩
  all_goals
    apply BitVec.eq_of_toNat_eq
    rw [BitVec.extractLsb'_toNat, Nat.shiftRight_eq_div_pow, descriptor_toNat, append_bytes_toNat]
    omega

/-- The first six bytes of a trace file are its first packet (R61). -/
theorem readTrace_descriptorBytes (w : BitVec 48) (rest : List Byte) :
    readTrace (descriptorBytes w ++ rest) = (readTrace rest).map (.opd w :: ·) := by
  have hw := descriptorOfBytes_descriptorBytes w
  unfold descriptorBytes at hw ⊢
  simp only [List.cons_append, List.nil_append, readTrace, hw]
  cases readTrace rest <;> rfl

/-- The descriptors of a trace file are read back one after another (R61). -/
theorem readTrace_flatMap (ws : List (BitVec 48)) :
    readTrace (ws.flatMap descriptorBytes) = some (ws.map .opd) := by
  induction ws with
  | nil => rfl
  | cons w ws ih =>
    rw [List.flatMap_cons, readTrace_descriptorBytes, ih]
    rfl

/-! ### Command lines (R68 to R70, R175) -/

/-- A text without white space, as the recognised ones are (R69). -/
def BareText (core : List Byte) : Prop := core ≠ [] ∧ ∀ b ∈ core, isSpace b = false

theorem bareText_S : BareText [chS] := ⟨by decide, by decide⟩

theorem bareText_N : BareText [chN] := ⟨by decide, by decide⟩

theorem bareText_deviationText (sign : Option Sign) (digits : List (Fin 10)) : BareText (deviationText sign digits) := by
  refine ⟨List.cons_ne_nil _ _, fun b hb => ?_⟩
  simp only [deviationText, List.mem_cons, List.mem_append, List.mem_map] at hb
  rcases hb with rfl | rfl | hb | ⟨d, _, rfl⟩
  · decide
  · decide
  · cases sign with
    | none => cases hb
    | some sg => cases sg <;> (rw [List.mem_singleton.mp hb]; decide)
  · exact isSpace_digitByte d

theorem BareText.head_not_space {core : List Byte} (h : BareText core) : ∀ b ∈ core.head?, isSpace b = false :=
  fun b hb => h.2 b (List.mem_of_mem_head? hb)

theorem BareText.getLast_not_space {core : List Byte} (h : BareText core) : ∀ b ∈ core.getLast?, isSpace b = false :=
  fun b hb => h.2 b (List.mem_of_mem_getLast? hb)

theorem BareText.trim_eq {core pre post : List Byte} (h : BareText core) (hpre : pre.all isSpace = true)
    (hpost : post.all isSpace = true) : trim (pre ++ core ++ post) = core :=
  trim_padded hpre hpost h.1 h.head_not_space h.getLast_not_space

/-- White space, a bare text, white space: the three parts are found again (R175). -/
theorem BareText.splitLine_eq {core pre post : List Byte} (h : BareText core) (hpre : pre.all isSpace = true)
    (hpost : post.all isSpace = true) : splitLine (pre ++ core ++ post) = (pre, core, post) := by
  have hhead : ∀ b ∈ (core ++ post).head?, isSpace b = false := by
    rw [List.head?_append_of_ne_nil _ h.1]
    exact h.head_not_space
  rw [splitLine, h.trim_eq hpre hpost, List.append_assoc, takeWhile_isSpace_append hpre hhead,
    dropWhile_isSpace_append hpre hhead, List.drop_left]

/-- `trim` removes the white space at the end of what is left when the front white space is dropped (R175). -/
theorem trim_append_rtakeWhile (text : List Byte) :
    trim text ++ (text.dropWhile isSpace).rtakeWhile isSpace = text.dropWhile isSpace :=
  List.rdropWhile_append_rtakeWhile

/-- What stands behind the trimmed text is the white space at the end (R175). -/
theorem drop_length_trim (text : List Byte) :
    (text.dropWhile isSpace).drop (trim text).length = (text.dropWhile isSpace).rtakeWhile isSpace := by
  conv_lhs => rw [← trim_append_rtakeWhile]
  exact List.drop_left

/-- The three parts of a text make it up, and the outer two are white space (R175). -/
theorem splitLine_append {text pre core post : List Byte} (h : splitLine text = (pre, core, post)) :
    text = pre ++ core ++ post ∧ pre.all isSpace = true ∧ post.all isSpace = true := by
  rw [splitLine, drop_length_trim] at h
  cases h
  refine ⟨?_, List.all_eq_true.mpr fun _ => List.mem_takeWhile_imp,
    List.all_eq_true.mpr fun _ => List.mem_rtakeWhile_imp⟩
  rw [List.append_assoc, trim_append_rtakeWhile, List.takeWhile_append_dropWhile]

/-- Everything that decodes to a line's operation: white space around one of the recognised texts (R68 to R70). -/
theorem decodeLine_op_cases {bytes : List Byte} {i : Instr} (h : decodeLine bytes = .op i) :
    ∃ pre core post, bytes = lineBytes pre core post ∧ pre.all isSpace = true ∧ post.all isSpace = true ∧
      (core = [chS] ∧ i = .lineS pre post ∨ core = [chN] ∧ i = .lineN pre post ∨
       ∃ sign digits, digits ≠ [] ∧ inI32 (signedValue sign digits) = true ∧ core = deviationText sign digits ∧
        i = .lineD pre sign digits post) := by
  unfold decodeLine at h
  split at h
  · rename_i hterm
    obtain ⟨text, rfl⟩ := List.getLast?_eq_some_iff.mp hterm
    rw [List.dropLast_concat] at h
    rcases hsplit : splitLine text with ⟨pre, core, post⟩
    obtain ⟨rfl, hpre, hpost⟩ := splitLine_append hsplit
    refine ⟨pre, core, post, rfl, hpre, hpost, ?_⟩
    simp only [hsplit] at h
    rcases recognise_cases core with ⟨hcore, hr⟩ | ⟨hcore, hr⟩ | ⟨sign, digits, hne, hrange, hcore, hr⟩ | hr <;>
      rw [hr] at h <;> cases h
    · exact .inl ⟨hcore, rfl⟩
    · exact .inr (.inl ⟨hcore, rfl⟩)
    · exact .inr (.inr ⟨sign, digits, hne, hrange, hcore, rfl⟩)
  · cases h

/-- A bare text with white space around it is decoded from its parts. -/
theorem decodeLine_lineBytes {pre core post : List Byte} (hcore : BareText core) (hpre : pre.all isSpace = true)
    (hpost : post.all isSpace = true) :
    (recognise core = .stop → decodeLine (lineBytes pre core post) = .op (.lineS pre post)) ∧
    (recognise core = .straight → decodeLine (lineBytes pre core post) = .op (.lineN pre post)) ∧
    (∀ sign digits, recognise core = .deviation sign digits →
      decodeLine (lineBytes pre core post) = .op (.lineD pre sign digits post)) := by
  have hterm : (lineBytes pre core post).getLast? = some lineTerm := List.getLast?_concat
  have htext : (lineBytes pre core post).dropLast = pre ++ core ++ post := List.dropLast_concat
  simp only [decodeLine, hterm, htext, hcore.splitLine_eq hpre hpost, if_true]
  exact ⟨fun h => by rw [h], fun h => by rw [h], fun _ _ h => by rw [h]⟩

/-- White space without its terminators is white space. -/
theorem all_isSpace_filter {bs : List Byte} (h : bs.all isSpace = true) (p : Byte → Bool) :
    (bs.filter p).all isSpace = true :=
  List.all_eq_true.mpr fun b hb => List.all_eq_true.mp h b (List.mem_of_mem_filter hb)

theorem BareText.filter_eq {core : List Byte} (h : BareText core) : core.filter (· ≠ lineTerm) = core := by
  refine List.filter_eq_self.mpr fun b hb => decide_eq_true ?_
  rintro rfl
  exact absurd (h.2 _ hb) (by decide)

theorem wellFormed_lineD_iff {present : BitVec 5} {pre : List Byte} {sign : Option Sign} {digits : List (Fin 10)}
    {post : List Byte} : (Instr.lineD pre sign digits post).wellFormed present = true ↔
      pre.all isSpace = true ∧ post.all isSpace = true ∧ digits ≠ [] ∧ inI32 (signedValue sign digits) = true := by
  simp only [Instr.wellFormed, Bool.and_eq_true, Bool.not_eq_true', List.isEmpty_eq_false_iff, and_assoc]

theorem parse_deviationText (nIsStop : Bool) {sign : Option Sign} {digits : List (Fin 10)} (hne : digits ≠ [])
    (hrange : inI32 (signedValue sign digits) = true) :
    parse nIsStop (deviationText sign digits) = .deviation (BitVec.ofInt 32 (signedValue sign digits)) := by
  rw [parse, recognise_deviationText hne hrange]

/-! ### Packets -/

/-- The encoding of a well-formed operation decodes to it. -/
theorem decodePacket_encode {present : BitVec 5} {i : Instr} (h : i.wellFormed present = true) :
    decodePacket present (encode i) = .op i := by
  cases i with
  | tick | mapdev => exact decodePacket_descriptor rfl
  | rise ch | fall ch =>
    refine decodePacket_descriptor ((decodeChannel_channelArg _ ch).trans ?_)
    exact decodeHandler_eq_ok.mpr ⟨h, rfl⟩
  | read ch => exact decodePacket_descriptor (decodeChannel_channelArg _ ch)
  | byte b =>
    refine decodePacket_descriptor (decodeByte_eq_ok.mpr ⟨rfl, ?_, ?_⟩)
    · rw [BitVec.toNat_setWidth]
      omega
    · rw [extractLsb'_setWidth_byte]
  | lineS pre post =>
    obtain ⟨hpre, hpost⟩ := Bool.and_eq_true_iff.mp h
    exact (decodeLine_lineBytes bareText_S hpre hpost).1 recognise_S
  | lineN pre post =>
    obtain ⟨hpre, hpost⟩ := Bool.and_eq_true_iff.mp h
    exact (decodeLine_lineBytes bareText_N hpre hpost).2.1 recognise_N
  | lineD pre sign digits post =>
    obtain ⟨hpre, hpost, hne, hrange⟩ := wellFormed_lineD_iff.mp h
    exact (decodeLine_lineBytes (bareText_deviationText sign digits) hpre hpost).2.2 _ _
      (recognise_deviationText hne hrange)
  | mode | mant | mans | mapstop | mapunr | mapnone | actwr | frame | step | reset | take | ind | bcn | srn =>
    exact decodePacket_descriptor rfl

/-- A packet that decodes to an operation is its encoding, and the operation is well formed. -/
theorem spelling_of_decodePacket {present : BitVec 5} {p : Packet} {i : Instr} (h : decodePacket present p = .op i) :
    encode i = p ∧ i.wellFormed present = true := by
  cases p with
  | opd w =>
    simp only [decodePacket, decodeDescriptor] at h
    split at h
    · rename_i j hj
      cases h
      rw [← descriptor_fields w]
      exact spelling_of_decodeFields hj
    · cases h
  | line bytes =>
    obtain ⟨pre, core, post, rfl, hpre, hpost, hcase⟩ := decodeLine_op_cases h
    rcases hcase with ⟨rfl, rfl⟩ | ⟨rfl, rfl⟩ | ⟨sign, digits, hne, hrange, rfl, rfl⟩
    · exact ⟨rfl, Bool.and_eq_true_iff.mpr ⟨hpre, hpost⟩⟩
    · exact ⟨rfl, Bool.and_eq_true_iff.mpr ⟨hpre, hpost⟩⟩
    · exact ⟨rfl, wellFormed_lineD_iff.mpr ⟨hpre, hpost, hne, hrange⟩⟩

end Sys2Proof

end

/-! ## What an ill-formed packet and a whole command line do -/

section

namespace Sys2Proof.Machine

/-- An operation is never refused as ill formed: that is told of packets (R67). -/
theorem exec_ne_illFormed (i : Instr) (s : State) (e : DecodeError) : exec i s ≠ .refused (.illFormed e) := by
  cases i with
  | rise ch | fall ch =>
    simp only [exec, execRise, execFall, onPin]
    split <;> nofun
  | _ => nofun

/-- A descriptor refuses the run exactly if it spells no operation (R67). -/
theorem step_illFormed_iff {s : State} {w : BitVec 48} {rest : List Packet} (htrace : s.trace = .opd w :: rest) :
    (∃ e, step s = .refused (.illFormed e)) ↔ ¬ ∃ i, decodeDescriptor s.cfg.chPresent w = .ok i := by
  cases h : decodeDescriptor s.cfg.chPresent w with
  | ok i =>
    have hstep : step s = exec i { s with trace := rest } := step_op htrace (by simp [decodePacket, h])
    simp [hstep, exec_ne_illFormed]
  | error e =>
    have hstep : step s = .refused (.illFormed e) := step_bad htrace (by simp [decodePacket, h])
    simp [hstep]

/-- A line received: its bytes without terminators, as far as they fit, and the line is complete (R171, R172). -/
theorem receiveLine_lineBytes (pre core post : List Byte) (s : State) :
    receiveLine (lineBytes pre core post) s =
      { s with rx :=
        { buf := s.rx.buf ++ ((pre ++ core ++ post).filter (· ≠ lineTerm)).take (s.cfg.bufCap - s.rx.buf.length)
          complete := true } } := by
  rw [receiveLine_eq, Receiver.acceptAll_eq, lineBytes, List.filter_append, List.any_append]
  simp [State.withRx]

/-- A line received is its `BYTE`s, the terminator last (R60, R73). -/
theorem execAll_line (pre core post : List Byte) (s : State) :
    execAll (line (pre ++ core ++ post)) s = .next (receiveLine (lineBytes pre core post) s) := by
  rw [← execAll_bytes, lineBytes, List.map_append]
  rfl

/-- A line with a bare text that fits an empty buffer, received and taken: the text is handed back and the policy runs
on what it parses to, and nothing else happens (R171, R174). -/
theorem takeLine_receiveLine {pre core post : List Byte} {s : State} (hbuf : s.rx.buf = []) (hcore : BareText core)
    (hpre : pre.all isSpace = true) (hpost : post.all isSpace = true)
    (hfits : pre.length + core.length + post.length ≤ s.cfg.bufCap) :
    takeLine (receiveLine (lineBytes pre core post) s) =
      { s with
        rx := { buf := [], complete := false }
        cmd := policy s.cfg (parse s.cfg.nIsStop core) s.cmd
        results := s.results ++ [.taken (some core)] } := by
  have hlen : ((pre ++ core ++ post).filter (· ≠ lineTerm)).length ≤ s.cfg.bufCap :=
    (List.length_filter_le _ _).trans (by simpa [Nat.add_assoc] using hfits)
  have htrim : trim ((pre ++ core ++ post).filter (· ≠ lineTerm)) = core := by
    rw [List.filter_append, List.filter_append, hcore.filter_eq]
    exact hcore.trim_eq (all_isSpace_filter hpre _) (all_isSpace_filter hpost _)
  rw [receiveLine_lineBytes, hbuf, List.nil_append, List.length_nil, Nat.sub_zero, List.take_of_length_le hlen]
  simp only [takeLine, htrim, if_true]
  rfl

end Sys2Proof.Machine

end

/-! ## The statements about the encoding -/

section

open Sys2Proof Sys2Proof.Machine

namespace Sys2Proof.Proofs

/-- Settles O2: the fields of a descriptor and the parts of a line are found again, operation by operation. -/
theorem decodeGivesBackEncodedOperation : Obligations.DecodeGivesBackEncodedOperation :=
  fun _ _ => decodePacket_encode

/-- Settles O3: what the decoder answers, arm by arm, has the packet for its encoding. -/
theorem operationHasOneSpelling : Obligations.OperationHasOneSpelling :=
  fun _ _ _ => spelling_of_decodePacket

/-- Settles O45: in each of the three lines the text is bare, so `trim` finds it, and it parses to the line's command. -/
theorem receivedLineIsTakenAsItsCommand : Obligations.ReceivedLineIsTakenAsItsCommand := by
  intro pre post sign digits s hbuf taken
  refine ⟨fun hwf hfits => ?_, fun hwf hfits => ?_, fun hwf hfits => ?_⟩
  · obtain ⟨hpre, hpost⟩ := Bool.and_eq_true_iff.mp hwf
    exact ⟨_, rfl, congrArg _ (takeLine_receiveLine hbuf bareText_S hpre hpost hfits)⟩
  · obtain ⟨hpre, hpost⟩ := Bool.and_eq_true_iff.mp hwf
    have htaken := takeLine_receiveLine hbuf bareText_N hpre hpost hfits
    cases hN : s.cfg.nIsStop <;> rw [hN] at htaken <;> exact ⟨_, rfl, congrArg _ htaken⟩
  · obtain ⟨hpre, hpost, hne, hrange⟩ := wellFormed_lineD_iff.mp hwf
    have htaken := takeLine_receiveLine hbuf (bareText_deviationText sign digits) hpre hpost hfits
    rw [parse_deviationText _ hne hrange] at htaken
    exact ⟨_, rfl, congrArg _ htaken⟩

/-- Settles O4: a step refuses what spells no operation, which is told by the three fields. -/
theorem illFormedDescriptorsRefuseTheRun : Obligations.IllFormedDescriptorsRefuseTheRun := by
  intro s w rest htrace
  rw [step_illFormed_iff htrace, decodeDescriptor, decodeFields_isOk_iff, not_not, opField_toNat, argField_toNat,
    immField_toNat]
  rfl

/-- Settles O5, by induction on the descriptors. -/
theorem traceFileIsReadBack : Obligations.TraceFileIsReadBack :=
  ⟨descriptorBytes_descriptor, readTrace_flatMap⟩

/-- Settles O7: both sides are the reception of the line's bytes. -/
theorem otherLineIsReceivedAsItsBytes : Obligations.OtherLineIsReceivedAsItsBytes := by
  intro s bytes rest htrace hother
  have hstep := step_otherLine htrace hother
  exact ⟨⟨_, hstep⟩, hstep.trans (execAll_bytes bytes _).symm⟩

/-- Settles O39: each line's operation receives the line's bytes. -/
theorem commandLinesAppendAndComplete : Obligations.CommandLinesAppendAndComplete := by
  intro pre post sign digits s
  refine ⟨?_, ?_, ?_, (execAll_line pre [chS] post s).symm, (execAll_line pre [chN] post s).symm,
    (execAll_line pre (deviationText sign digits) post s).symm⟩
  all_goals exact congrArg _ (receiveLine_lineBytes pre _ post s)

/-- Settles O1, by evaluation of the decoder on the ten packets. -/
theorem sampleWordsDecode : Obligations.SampleWordsDecode := by
  unfold Obligations.SampleWordsDecode
  decide

end Sys2Proof.Proofs

end

/-! ## Capture: what a sequence of operations does to the time and to the registers of a channel -/

section

namespace Sys2Proof.Machine

/-! ### Completion -/

/-- A handler of a channel that is absent is refused (R64, R87). -/
theorem exec_handler_absent {ch : Channel} {i : Instr} {s : State} (hi : IsHandlerOf ch i)
    (habsent : channelPresent s.cfg.chPresent ch = false) : exec i s = .refused (.absentChannel ch) := by
  obtain rfl | rfl := hi <;> exact onPin_absent _ habsent

/-- Only a handler can be refused, and only for the channel that its well-formedness asks for (R64, R210). -/
theorem exec_completes {i : Instr} {s : State} (hwf : i.wellFormed s.cfg.chPresent = true) :
    ∃ t, exec i s = .next t := by
  cases i with
  | rise ch | fall ch => exact ⟨_, onPin_present _ hwf⟩
  | _ => exact ⟨_, rfl⟩

/-- No operation writes `CH_PRESENT`, so operations that are well formed at the start stay so. -/
theorem execAll_completes {ops : List Instr} {s : State} (hwf : ∀ i ∈ ops, i.wellFormed s.cfg.chPresent = true) :
    ∃ t, execAll ops s = .next t := by
  induction ops generalizing s with
  | nil => exact ⟨s, rfl⟩
  | cons i ops ih =>
    obtain ⟨hi, hops⟩ := List.forall_mem_cons.mp hwf
    obtain ⟨u, hu⟩ := exec_completes hi
    rw [execAll_cons_next hu]
    exact ih (exec_cfg hu ▸ hops)

theorem execAll_cfg {ops : List Instr} {s t : State} (h : execAll ops s = .next t) : t.cfg = s.cfg :=
  execAll_keeps (P := fun u => u.cfg = s.cfg) (fun _ _ _ hu hv => (exec_cfg hv).trans hu) rfl h

/-! ### The time base -/

/-- The time that passes in a sequence is that of its first operation and that of the rest (R84). -/
theorem tickedTime_cons (i : Instr) (ops : List Instr) :
    tickedTime (i :: ops) = tickedTime [i] + tickedTime ops := by
  cases i with
  | tick dt => rfl
  | _ => exact (Nat.zero_add _).symm

/-- Time passes in the environment only (R63, R80). -/
theorem tickedTime_eq_zero {i : Instr} (hi : agentOf i ≠ .environment) : tickedTime [i] = 0 := by
  cases i with
  | tick dt => exact absurd rfl hi
  | _ => rfl

theorem LoopEffect.now_eq {s u : State} {i : Instr} (h : LoopEffect s i u) : u.now = s.now := by
  cases h <;> rfl

/-- The time advances by what the operation ticks, modulo 2^32 (R11, R80). -/
theorem exec_now {i : Instr} {s t : State} (hi : i ≠ .reset) (h : exec i s = .next t) :
    t.now = s.now + BitVec.ofNat 32 (tickedTime [i]) := by
  cases exec_effect h with
  | reset => exact absurd rfl hi
  | tick dt => simp [tickedTime]
  | receive _ hagent => simp [tickedTime_eq_zero (i := i) (by simp [hagent])]
  | mainLoop hagent hu => simp [tickedTime_eq_zero (i := i) (by simp [hagent]), hu.now_eq]
  | _ => simp [tickedTime]

/-- The time advances by the sum of the `TICK`s, modulo 2^32 (R84). -/
theorem execAll_now {ops : List Instr} {s t : State} (hops : Instr.reset ∉ ops) (h : execAll ops s = .next t) :
    t.now = s.now + BitVec.ofNat 32 (tickedTime ops) := by
  induction ops generalizing s with
  | nil =>
    cases h
    exact (BitVec.add_zero _).symm
  | cons i ops ih =>
    obtain ⟨u, hu, hrest⟩ := execAll_cons_cases h
    obtain ⟨hi, hops⟩ := not_or.mp (List.mem_cons.not.mp hops)
    rw [ih hops hrest, exec_now (Ne.symm hi) hu, tickedTime_cons i ops, BitVec.ofNat_add, BitVec.add_assoc]

/-! ### The registers of a channel -/

theorem State.capture_withCapture (s : State) (ch : Channel) (r : Capture) : (s.withCapture ch r).capture ch = r := by
  simp [State.capture, State.withCapture]

/-- Between its handlers a channel's registers stay (R13 to R15). -/
theorem exec_capture {ch : Channel} {i : Instr} {s t : State} (hi : ¬ IsHandlerOf ch i) (hreset : i ≠ .reset)
    (h : exec i s = .next t) : t.capture ch = s.capture ch := by
  rcases exec_channel_cases ch h with hr | ⟨_, ⟨hrise, _⟩ | ⟨hfall, _⟩⟩ | ⟨hstart, harmed, hwidth⟩
  · exact absurd hr hreset
  · exact absurd (.inl hrise) hi
  · exact absurd (.inr hfall) hi
  · simp [State.capture, hstart, harmed, hwidth]

theorem execAll_capture {ch : Channel} {ops : List Instr} {s t : State}
    (hops : ∀ i ∈ ops, ¬ IsHandlerOf ch i ∧ i ≠ .reset) (h : execAll ops s = .next t) :
    t.capture ch = s.capture ch := by
  induction ops generalizing s with
  | nil =>
    cases h
    rfl
  | cons i ops ih =>
    obtain ⟨u, hu, hrest⟩ := execAll_cons_cases h
    obtain ⟨⟨hi, hreset⟩, hops⟩ := List.forall_mem_cons.mp hops
    rw [ih hops hrest, exec_capture hi hreset hu]

/-- The registers that `RISE` leaves, at the next `FALL`: the width is the time in between, modulo 2^32 (R84). -/
theorem Capture.edge_fall_edge_rise (ch : Channel) (now dt : Word) (r : Capture) :
    (r.edge (.rise ch) now).edge (.fall ch) (now + dt) = ⟨now, false, dt⟩ := by
  simp [Capture.edge, elapsed]

/-- Well-formed operations that spare a channel, between its two handlers (R84). -/
theorem execAll_between {ch : Channel} {ops : List Instr} {s : State}
    (hwf : ∀ i ∈ ops, i.wellFormed s.cfg.chPresent = true) (hops : ∀ i ∈ ops, ¬ IsHandlerOf ch i ∧ i ≠ .reset) :
    ∃ t, execAll ops s = .next t ∧ t.cfg = s.cfg ∧ t.now = s.now + BitVec.ofNat 32 (tickedTime ops) ∧
      t.capture ch = s.capture ch := by
  obtain ⟨t, ht⟩ := execAll_completes hwf
  exact ⟨t, ht, execAll_cfg ht, execAll_now (fun hmem => (hops _ hmem).2 rfl) ht, execAll_capture hops ht⟩

/-- `RISE`, operations that spare the channel, `FALL`: the channel holds the start and the width of the pulse, and is
not armed. -/
theorem execAll_pulse {ch : Channel} {ops : List Instr} {s : State} (hp : channelPresent s.cfg.chPresent ch = true)
    (hwf : ∀ i ∈ ops, i.wellFormed s.cfg.chPresent = true) (hops : ∀ i ∈ ops, ¬ IsHandlerOf ch i ∧ i ≠ .reset) :
    ∃ t, execAll (.rise ch :: ops ++ [.fall ch]) s = .next t ∧
      t.capture ch = ⟨s.now, false, BitVec.ofNat 32 (tickedTime ops)⟩ := by
  have hrise := exec_handler (i := .rise ch) (.inl rfl) hp
  obtain ⟨u, hu, hcfg, hnow, hcapture⟩ :=
    execAll_between (s := s.withCapture ch ((s.capture ch).edge (.rise ch) s.now)) hwf hops
  have hfall := exec_handler (i := .fall ch) (s := u) (.inr rfl) (hcfg ▸ hp)
  have hpulse := execAll_append_next (js := [.fall ch]) ((execAll_cons_next hrise).trans hu)
  refine ⟨_, hpulse.trans (execAll_cons_next hfall), ?_⟩
  rw [u.capture_withCapture, hcapture, s.capture_withCapture, hnow]
  exact Capture.edge_fall_edge_rise ch s.now _ _

end Sys2Proof.Machine

end

/-! ## The statements about capture -/

section

open Sys2Proof Sys2Proof.Machine

namespace Sys2Proof.Proofs

/-- Settles O15: the operations in between advance the time and leave the channel's registers as `RISE` left them. -/
theorem publishedWidthIsTheTimeInBetween : Obligations.PublishedWidthIsTheTimeInBetween := by
  intro ch ops s hp hops
  obtain ⟨t, ht, hcapture⟩ := execAll_pulse hp (fun i hi => (hops i hi).1) fun i hi =>
    have ⟨_, hrise, hfall, hreset⟩ := hops i hi
    ⟨not_or.mpr ⟨hrise, hfall⟩, hreset⟩
  exact ⟨t, ht, congrArg Capture.width hcapture, congrArg Capture.armed hcapture⟩

/-- Settles O11: addition of words is addition modulo 2^32, and associative. -/
theorem tickAddsModuloTwoToThe32 : Obligations.TickAddsModuloTwoToThe32 := by
  intro dt dt' s
  have hsum : BitVec.ofNat 32 ((s.now.toNat + dt.toNat) % 2 ^ 32) = s.now + dt := by
    rw [← BitVec.toNat_add, BitVec.ofNat_toNat, BitVec.setWidth_eq]
  refine ⟨rfl, ?_, ?_⟩
  · rw [hsum]
    rfl
  · show Host.Outcome.next (s.withNow (s.now + dt + dt')) = .next (s.withNow (s.now + (dt + dt')))
    rw [BitVec.add_assoc]

/-- Settles O12. -/
theorem riseRecordsThePulseStart : Obligations.RiseRecordsThePulseStart := by
  refine fun ch s => ⟨rfl, fun hp => ?_, exec_handler_absent (.inl rfl)⟩
  exact ⟨_, _, onPin_present _ hp, fun c => ⟨s.start.get_set ch c _, s.armed.get_set ch c _⟩⟩

/-- Settles O13: the elapsed time is the difference of two words, a number modulo 2^32. -/
theorem fallPublishesTheElapsedTime : Obligations.FallPublishesTheElapsedTime := by
  refine fun ch s => ⟨rfl, fun hp ha => ?_, fun hp ha => ?_, exec_handler_absent (.inr rfl)⟩
  · have helapsed : BitVec.ofNat 32 ((s.now.toNat + 2 ^ 32 - (s.start.get ch).toNat) % 2 ^ 32) =
        elapsed s.now (s.start.get ch) := by
      rw [← elapsed_toNat, BitVec.ofNat_toNat, BitVec.setWidth_eq]
    rw [helapsed, exec, execFall, onPin_present _ hp, if_pos ha]
    exact ⟨_, _, rfl, fun c => ⟨s.width.get_set ch c _, s.armed.get_set ch c _⟩⟩
  · rw [exec, execFall, onPin_present _ hp, ha]
    rfl

/-- Settles O14: reading has no side effect on the registers (R45), so only the result is new. -/
theorem readHandsBackTheWidth : Obligations.ReadHandsBackTheWidth :=
  fun _ _ => ⟨rfl, rfl⟩

end Sys2Proof.Proofs

end

/-! ## Mode and manual mapping: the comparisons on numbers, and operations that commute from every state -/

section

namespace Sys2Proof.Machine

/-! ### Threshold and clamps, unsigned (R101, R102) -/

/-- The mode threshold on numbers (R100, R108). -/
theorem modeOf_eq_ite (w : Word) : modeOf w = if 1500 < w.toNat then .autonomous else .manual := rfl

/-- The clamp on numbers (R8, R102). -/
theorem clamp_eq_ite (v lo hi : Word) :
    clamp v lo hi = if v.toNat < lo.toNat then lo else if hi.toNat < v.toNat then hi else v := rfl

/-- The mode channel's width is not written by `MODE`, so deciding again decides the same (R100). -/
theorem decideMode_decideMode (s : State) : decideMode (decideMode s) = decideMode s := rfl

/-- The throttle half of the manual command is inside its clamp (R106). -/
theorem manualThrottle_range {s : State} (h : s.cfg.thrLo ≤ s.cfg.thrHi) :
    s.cfg.thrLo ≤ (manualThrottle s).cmd.throttle ∧ (manualThrottle s).cmd.throttle ≤ s.cfg.thrHi :=
  clamp_range _ h

/-- The steering clamp is the actuator range itself (R104, R106). -/
theorem manualSteer_inRange (s : State) : Safety.InActuatorRange (manualSteer s).cmd.steer :=
  Safety.inActuatorRange_of_le (by decide) (by decide) (clamp_range _ (by decide))

/-- `MANS` leaves the throttle half alone (R104). -/
theorem manualSteer_throttle (s : State) : (manualSteer s).cmd.throttle = s.cmd.throttle := rfl

/-! ### Operations that commute from every state (R105, R155, R215) -/

/-- The order of the two operations makes no difference, whether they complete or are refused. -/
def AlwaysCommute (i j : Instr) : Prop := ∀ s, execAll [i, j] s = execAll [j, i] s

theorem alwaysCommute_mant_mans : AlwaysCommute .mant .mans :=
  fun s => congrArg Host.Outcome.next (manual_halves_eq_mapManual s).2

/-- Each of the three controllers reads the time, the output registers or a width, and writes its own state only, which
the other two do not read (R155). -/
theorem controllers_pairwise_commute : [Instr.ind, .bcn, .srn].Pairwise AlwaysCommute := by
  have hindBcn : AlwaysCommute .ind .bcn := fun _ => rfl
  have hindSrn : AlwaysCommute .ind .srn := fun _ => rfl
  have hbcnSrn : AlwaysCommute .bcn .srn := fun _ => rfl
  simp [hindBcn, hindSrn, hbcnSrn]

theorem alwaysCommute_of_controllers {i j : Instr} (hi : i ∈ [Instr.ind, .bcn, .srn])
    (hj : j ∈ [Instr.ind, .bcn, .srn]) : AlwaysCommute i j := by
  have : Std.Symm AlwaysCommute := ⟨fun _ _ h s => (h s).symm⟩
  exact controllers_pairwise_commute.forall_of_forall (fun _ _ _ => rfl) hi hj

/-- The serial handler ignores every channel (R215, R220). -/
theorem ignores_of_byte (a : Channel) (b : Byte) (s : State) :
    Ignores a (.byte b) s (s.withRx (s.rx.accept s.cfg.bufCap b)) :=
  ⟨rfl, rfl, rfl, fun _ => rfl⟩

/-- A sequence whose first operation is refused is refused. -/
theorem execAll_cons_refused {i : Instr} {is : List Instr} {s : State} {r : Refusal} (h : exec i s = .refused r) :
    execAll (i :: is) s = .refused r := by
  simp [execAll, h]

/-- A byte ignores the handler's channel.  Where that channel is absent the handler is refused before the byte and after
it, since a byte does not change `CH_PRESENT` (R22, R64, R215). -/
theorem alwaysCommute_byte_handler (b : Byte) {ch : Channel} {i : Instr} (hi : IsHandlerOf ch i) :
    AlwaysCommute (.byte b) i := by
  intro s
  have hbyte := ignores_of_byte ch b s
  cases hp : channelPresent s.cfg.chPresent ch with
  | true => exact (hbyte.handler_comm hi hp).2.symm
  | false =>
    have hafter : exec i (s.withRx (s.rx.accept s.cfg.bufCap b)) = .refused (.absentChannel ch) :=
      exec_handler_absent hi hp
    calc execAll [.byte b, i] s
      _ = execAll [i] (s.withRx (s.rx.accept s.cfg.bufCap b)) := execAll_cons_next hbyte.runs
      _ = .refused (.absentChannel ch) := execAll_cons_refused hafter
      _ = execAll [i, .byte b] s := (execAll_cons_refused (exec_handler_absent hi hp)).symm

/-! ### Well-formedness that asks for nothing -/

/-- Every main-loop operation is well formed, whatever channels are present (R64). -/
theorem wellFormed_of_mainLoop {i : Instr} (hi : agentOf i = .mainLoop) (present : BitVec 5) :
    i.wellFormed present = true := by
  cases i with
  | rise | fall | lineS | lineN | lineD => cases hi
  | _ => rfl

/-- Two main-loop operations complete from every state (R210). -/
theorem execAll_mainLoop_pair_completes {i j : Instr} (hi : agentOf i = .mainLoop) (hj : agentOf j = .mainLoop)
    (s : State) : ∃ t, execAll [i, j] s = .next t :=
  execAll_completes (by simp [wellFormed_of_mainLoop hi, wellFormed_of_mainLoop hj])

end Sys2Proof.Machine

end

/-! ## The statements about the mode, the manual mapping and independent operations -/

section

open Sys2Proof Sys2Proof.Machine Sys2Proof.Safety

namespace Sys2Proof.Proofs

/-- Settles O23: each half is a clamp, and a legal throttle clamp lies inside the actuator range. -/
theorem manualCommandIsInRange : Obligations.ManualCommandIsInRange := by
  refine ⟨fun s hle => ?_, fun s => ?_, fun s hlegal => ?_⟩
  · obtain ⟨hlo, hhi⟩ := manualThrottle_range (BitVec.le_def.mpr hle)
    exact ⟨manualThrottle s, rfl, BitVec.le_def.mp hlo, BitVec.le_def.mp hhi⟩
  · exact ⟨manualSteer s, rfl, manualSteer_inRange s⟩
  · obtain ⟨⟨hlo, _⟩, hle, ⟨_, hhi⟩, _⟩ := hlegal
    refine ⟨manualSteer (manualThrottle s), rfl, ?_, manualSteer_inRange _⟩
    rw [manualSteer_throttle]
    exact inActuatorRange_of_le hlo hhi (manualThrottle_range hle)

/-- Settles O17: the manual halves and the controllers commute wherever they run, and a byte ignores every channel. -/
theorem independentOperationsCommute : Obligations.IndependentOperationsCommute := by
  refine ⟨fun s => ?_, fun i j s hi hj => ?_, fun b ch i s hi => ?_⟩
  · exact ⟨execAll_mainLoop_pair_completes rfl rfl s, alwaysCommute_mant_mans s⟩
  · have hagent : ∀ k ∈ [Instr.ind, .bcn, .srn], agentOf k = .mainLoop := by decide
    exact ⟨execAll_mainLoop_pair_completes (hagent i hi) (hagent j hj) s,
      fun _ => alwaysCommute_of_controllers hi hj s⟩
  · have hcomm := alwaysCommute_byte_handler b hi s
    refine ⟨hcomm, fun hp => ?_⟩
    obtain ⟨t, ht⟩ := ((ignores_of_byte ch b s).handler_comm hi hp).1
    exact ⟨t, hcomm.trans ht⟩

/-- Settles O20: the threshold on numbers, and a second decision from the same width. -/
theorem modeComparesStrictlyWithThreshold : Obligations.ModeComparesStrictlyWithThreshold := by
  refine ⟨rfl, fun s => ⟨?_, ?_⟩⟩
  · rw [← modeOf_eq_ite]
    rfl
  · exact congrArg Host.Outcome.next (decideMode_decideMode s)

/-- Settles O21: the throttle clamp, its bounds those of the configuration. -/
theorem mantClampsTheThrottle : Obligations.MantClampsTheThrottle := by
  refine ⟨rfl, fun s => ?_⟩
  rw [← clamp_eq_ite]
  rfl

/-- Settles O22: the steering clamp, its bounds fixed. -/
theorem mansClampsTheSteering : Obligations.MansClampsTheSteering := by
  refine ⟨rfl, fun s => ?_⟩
  have hclamp : clamp s.width.steer Config.steerLo Config.steerHi =
      if s.width.steer.toNat < 1000 then 1000 else if 2000 < s.width.steer.toNat then 2000 else s.width.steer :=
    clamp_eq_ite _ _ _
  rw [← hclamp]
  rfl

end Sys2Proof.Proofs

end

/-! ## The deviation policy: the band table row by row, and the values a command is issued with -/

section

namespace Sys2Proof.Machine

/-! ### The rows of the band table (R116, R117) -/

/-- The bands 1 to 8 of the table in its order, each with its condition on the deviation and its pair (R116); `Pos` and
`Neg` are the deviation's sign. -/
inductive BandRow (d : Int) : Word → Word → Prop
  | forwardPos (hlo : 0 < d) (hhi : d < 40) : BandRow d (proportionalSteer d) 1560
  | forwardNeg (hlo : -40 < d) (hhi : d < 0) : BandRow d (proportionalSteer d) 1560
  | hardPos (hlo : 40 ≤ d) (hhi : d < 80) : BandRow d 1000 1550
  | hardNeg (hlo : -80 < d) (hhi : d ≤ -40) : BandRow d 2000 1550
  | reversePos (hlo : 80 ≤ d) (hhi : d < 100) : BandRow d 1800 1440
  | reverseNeg (hlo : -100 < d) (hhi : d ≤ -80) : BandRow d 1200 1440
  | strongReversePos (hlo : 100 ≤ d) : BandRow d 1800 1430
  | strongReverseNeg (hhi : d ≤ -100) : BandRow d 1200 1430

/-- The bands do not overlap, so the table answers with the row whose condition holds, whatever its order (R117). -/
theorem BandRow.mapDev_eq {d : Int} {steer throttle : Word} (h : BandRow d steer throttle) :
    mapDev d = some (steer, throttle) := by
  cases h <;> simp (disch := omega) only [mapDev, if_pos, if_neg]

/-- Every pair of the table is that of a row. -/
theorem bandRow_of_mapDev {d : Int} {steer throttle : Word} (h : mapDev d = some (steer, throttle)) :
    BandRow d steer throttle := by
  rcases mapDev_cases d with ⟨hlo, hhi, hd⟩ | ⟨hlo, hhi, hd⟩ | ⟨hlo, hhi, hd⟩ | ⟨hlo, hhi, hd⟩ | ⟨hlo, hhi, hd⟩ |
    ⟨hlo, hhi, hd⟩ | ⟨hlo, hd⟩ | ⟨hhi, hd⟩ | ⟨_, hd⟩ <;> cases hd.symm.trans h
  · exact .forwardPos hlo hhi
  · exact .forwardNeg hlo hhi
  · exact .hardPos hlo hhi
  · exact .hardNeg hlo hhi
  · exact .reversePos hlo hhi
  · exact .reverseNeg hlo hhi
  · exact .strongReversePos hlo
  · exact .strongReverseNeg hhi

/-- The steering of bands 1 and 2, its clamp a maximum of a minimum. -/
theorem proportionalSteer_eq_max_min (d : Int) :
    proportionalSteer d = BitVec.ofInt 32 (max 1400 (min 1600 (1500 - 40 * d))) := by
  rw [proportionalSteer, clampInt_eq_max_min _ (by omega)]

/-! ### What `MAPDEV` leaves (R118, R119) -/

theorem policyDeviation_of_bandRow {cfg : Config} {d : Word} {steer throttle : Word}
    (h : BandRow d.toInt steer throttle) (c : Command) :
    policyDeviation cfg d c = { steer := steer, throttle := throttle, issue := true, ind := .run } := by
  rw [policyDeviation, h.mapDev_eq]

theorem policyDeviation_of_toInt_eq_zero {d : Word} (h : d.toInt = 0) (cfg : Config) (c : Command) :
    policyDeviation cfg d c = deviationZero cfg c := by
  rw [policyDeviation, h]
  rfl

theorem deviationZero_of_hold {cfg : Config} (h : cfg.d0Policy = .hold) (c : Command) :
    deviationZero cfg c = { c with issue := false, ind := .keep } := by
  rw [deviationZero, h]

theorem deviationZero_of_neutral {cfg : Config} (h : cfg.d0Policy = .neutral) (c : Command) :
    deviationZero cfg c = { steer := 1500, throttle := 1500, issue := true, ind := .run } := by
  rw [deviationZero, h]
  rfl

/-- `MAPDEV` changes the latch alone (R118). -/
theorem exec_mapdev {d : Word} {s : State} {c : Command} (h : policyDeviation s.cfg d s.cmd = c) :
    exec (.mapdev d) s = .next { s with cmd := c } :=
  h ▸ rfl

/-! ### The values a command is issued with (R123, R125) -/

/-- The steering and the throttle of an issued command, value by value (R123). -/
def Tabulated (cfg : Config) (steer throttle : Word) : Prop :=
  steer.toNat ∈ [1000, 1200, 1400, 1420, 1460, 1500, 1540, 1580, 1600, 1800, 2000] ∧
  (throttle.toNat ∈ [1430, 1440, 1550, 1560] ∨ throttle = cfg.stopThr ∨
    (throttle = 1500 ∧ cfg.d0Policy = .neutral))

/-- The bounds of the clamp, and what deviations of at most 2 either way give strictly inside it (R125). -/
theorem proportionalSteer_mem (d : Int) :
    (proportionalSteer d).toNat ∈ [1400, 1420, 1460, 1500, 1540, 1580, 1600] := by
  have hval := proportionalSteer_toNat d
  rw [clampInt_eq_max_min _ (by omega)] at hval
  simp only [List.mem_cons, List.not_mem_nil, or_false]
  omega

theorem BandRow.tabulated {d : Int} {steer throttle : Word} (h : BandRow d steer throttle) (cfg : Config) :
    Tabulated cfg steer throttle := by
  have hprop : (proportionalSteer d).toNat ∈ [1000, 1200, 1400, 1420, 1460, 1500, 1540, 1580, 1600, 1800, 2000] := by
    have hmem := proportionalSteer_mem d
    simp only [List.mem_cons, List.not_mem_nil, or_false] at hmem ⊢
    omega
  cases h with
  | forwardPos | forwardNeg => exact ⟨hprop, .inl (by decide)⟩
  | _ => exact ⟨by decide, .inl (by decide)⟩

/-- `StopOrStraight` is neutral steering at `STOP_THR` (R120). -/
theorem tabulated_stop (cfg : Config) : Tabulated cfg 1500 cfg.stopThr :=
  ⟨by decide, .inr (.inl rfl)⟩

/-- `Deviation(0)` under the neutral policy (R119). -/
theorem tabulated_neutral {cfg : Config} (h : cfg.d0Policy = .neutral) : Tabulated cfg 1500 1500 :=
  ⟨by decide, .inr (.inr ⟨rfl, h⟩)⟩

/-- A command that the policy issues is tabulated (R116, R119, R120). -/
theorem policy_tabulated {cfg : Config} {p : ParsedCommand} {c : Command} (h : (policy cfg p c).issue = true) :
    Tabulated cfg (policy cfg p c).steer (policy cfg p c).throttle := by
  rcases policy_cases cfg p c with ⟨d, _, hp⟩ | ⟨_, hp⟩ | ⟨_, hp⟩ <;> rw [hp] at h ⊢
  · rcases policyDeviation_cases cfg d c with ⟨steer, throttle, hmap, hd⟩ | ⟨_, hd⟩ <;> rw [hd] at h ⊢
    · exact (bandRow_of_mapDev hmap).tabulated cfg
    · cases hpolicy : cfg.d0Policy with
      | hold => simp [deviationZero_of_hold hpolicy] at h
      | neutral =>
        rw [deviationZero_of_neutral hpolicy]
        exact tabulated_neutral hpolicy
  · exact tabulated_stop cfg
  · cases h

/-- Under a legal configuration every tabulated pair is in the range of R123. -/
theorem Tabulated.range {cfg : Config} {steer throttle : Word} (h : Tabulated cfg steer throttle) (hcfg : cfg.Legal) :
    (1000 ≤ steer.toNat ∧ steer.toNat ≤ 2000) ∧ (1430 ≤ throttle.toNat ∧ throttle.toNat ≤ 1560) := by
  obtain ⟨-, -, -, ⟨hstopLo, hstopHi⟩, -⟩ := hcfg
  obtain ⟨hsteer, hthrottle⟩ := h
  simp only [List.mem_cons, List.not_mem_nil, or_false] at hsteer hthrottle
  refine ⟨by omega, ?_⟩
  rcases hthrottle with htable | rfl | ⟨rfl, _⟩
  · omega
  · bv_omega
  · decide

/-- Everything the four operations of the policy can do (R118 to R122). -/
theorem exec_policy_cases {i : Instr} {s t : State}
    (hi : (∃ d, i = .mapdev d) ∨ i = .mapstop ∨ i = .mapunr ∨ i = .mapnone) (h : exec i s = .next t) :
    (∃ p, t = s.withCmd (policy s.cfg p s.cmd)) ∨ t = s.withCmd (policyNone s.cmd) := by
  rcases hi with ⟨d, rfl⟩ | rfl | rfl | rfl <;> cases h
  · exact .inl ⟨.deviation d, rfl⟩
  · exact .inl ⟨.stopOrStraight, rfl⟩
  · exact .inl ⟨.unrecognized, rfl⟩
  · exact .inr rfl

end Sys2Proof.Machine

end

/-! ## The statements about the deviation policy -/

section

open Sys2Proof Sys2Proof.Machine

namespace Sys2Proof.Proofs

/-- Settles O24: each condition is that of a row, and `d = 0` is what R119 says under the policy chosen. -/
theorem mapdevFollowsTheBandTable : Obligations.MapdevFollowsTheBandTable := by
  intro d s x issues
  have hissues {steer throttle : Word} (h : BandRow x steer throttle) : issues steer throttle :=
    exec_mapdev (policyDeviation_of_bandRow h s.cmd)
  have hzero (hx : x = 0) := policyDeviation_of_toInt_eq_zero hx s.cfg s.cmd
  rw [← proportionalSteer_eq_max_min]
  exact ⟨rfl,
    fun ⟨hlo, hhi⟩ => hissues (.forwardPos hlo hhi),
    fun ⟨hlo, hhi⟩ => hissues (.forwardNeg hlo hhi),
    fun ⟨hlo, hhi⟩ => hissues (.hardPos hlo hhi),
    fun ⟨hlo, hhi⟩ => hissues (.hardNeg hlo hhi),
    fun ⟨hlo, hhi⟩ => hissues (.reversePos hlo hhi),
    fun ⟨hlo, hhi⟩ => hissues (.reverseNeg hlo hhi),
    fun hlo => hissues (.strongReversePos hlo),
    fun hhi => hissues (.strongReverseNeg hhi),
    fun hx hhold => exec_mapdev ((hzero hx).trans (deviationZero_of_hold hhold s.cmd)),
    fun hx hneutral => exec_mapdev ((hzero hx).trans (deviationZero_of_neutral hneutral s.cmd))⟩

/-- Settles O26: an issued command is tabulated, and a tabulated command is in range. -/
theorem policyIssuesTabulatedValues : Obligations.PolicyIssuesTabulatedValues := by
  intro i s t hcfg hi h hissue
  rcases exec_policy_cases hi h with ⟨p, rfl⟩ | rfl
  · have htab := policy_tabulated (cfg := s.cfg) (p := p) (c := s.cmd) hissue
    obtain ⟨hsteer, hthrottle⟩ := htab.range hcfg
    exact ⟨hsteer, hthrottle, htab⟩
  · cases hissue

/-- Settles O25: each operation writes the latch alone. -/
theorem stopUnrecognizedAndNoneSetTheLatch : Obligations.StopUnrecognizedAndNoneSetTheLatch :=
  ⟨by decide, by decide, by decide, fun _ => ⟨rfl, rfl, rfl⟩⟩

end Sys2Proof.Proofs

end

/-! ## The output driver -/

section

namespace Sys2Proof.Machine

/-- The three requests of the latch told apart by equality (R141). -/
theorem inhibitAfter_eq_ite (request : IndRequest) (inhibit : Bool) :
    inhibitAfter request inhibit = if request = .off then true else if request = .run then false else inhibit := by
  cases request <;> rfl

end Sys2Proof.Machine

end

/-! ## The statements about the output driver -/

section

open Sys2Proof Sys2Proof.Machine Sys2Proof.Safety

namespace Sys2Proof.Proofs

/-- Settles O30: `RESET` keeps the legal configuration and brings the registers and the latch to their reset values; and
every operation keeps the range, since the latch is only ever written in range and a commit copies it (R144). -/
theorem outputsStayInActuatorRange : Obligations.OutputsStayInActuatorRange := by
  refine ⟨fun s hcfg => ?_, fun s t hs h => ?_⟩
  · obtain ⟨_, hregisters⟩ := invariantHoldsAtReset.actuators
    exact ⟨_, rfl, hcfg, hregisters⟩
  · exact step_keeps exec_keeps_actuatorsInRange (fun _ _ hs => hs) hs h

/-- Settles O27: the pair is chosen as a whole by `cmd.issue`, the inhibit by `cmd.ind` alone. -/
theorem actwrCommitsBothOrNeither : Obligations.ActwrCommitsBothOrNeither := by
  refine ⟨by decide, fun s => ?_⟩
  rw [← inhibitAfter_eq_ite]
  rfl

/-- Settles O28: the pair is only handed back, so the result is all that is new. -/
theorem frameHandsBackTheOutputPair : Obligations.FrameHandsBackTheOutputPair :=
  ⟨by decide, fun _ => rfl⟩

end Sys2Proof.Proofs

end

/-! ## The sequencer: the operation of each phase, and one whole iteration as a function of its first state -/

section

namespace Sys2Proof.Machine

/-! ### The operation a phase names (R155, R156) -/

/-- What a phase performs in a mode: one operation, or, at phase 2 in `Autonomous`, none. -/
def phaseOperations (p : Fin 7) (m : Mode) : List Instr :=
  match p, m with
  | 0, _ => [.mode]
  | 1, .manual => [.mant]
  | 1, .autonomous => [.take]
  | 2, .manual => [.mans]
  | 2, .autonomous => []
  | 3, _ => [.actwr]
  | 4, _ => [.ind]
  | 5, _ => [.bcn]
  | 6, _ => [.srn]

/-- A phase does what its operation, given as a descriptor of its own, does. -/
theorem execAll_phaseOperations {s : State} {p : Fin 7} {m : Mode} (hp : s.seq = p) (hm : s.mode = m) :
    execAll (phaseOperations p m) s = .next (performPhase s) := by
  subst hp hm
  rcases performPhase_cases s with ⟨hp, hdo⟩ | ⟨hp, hm, hdo⟩ | ⟨hp, hm, hdo⟩ | ⟨hp, hm, hdo⟩ | ⟨hp, hm, hdo⟩ |
    ⟨hp, hdo⟩ | ⟨hp, hdo⟩ | ⟨hp, hdo⟩ | ⟨hp, hdo⟩
  all_goals
    simp only [phaseOperations, *]
    rfl

/-! ### `TAKE`, and the mode that is decided before it -/

/-- `TAKE` with a complete line (R174). -/
theorem takeLine_of_complete {s : State} (h : s.rx.complete = true) :
    takeLine s =
      { s with
        rx := { buf := [], complete := false }
        cmd := policy s.cfg (parse s.cfg.nIsStop (trim s.rx.buf)) s.cmd
        results := s.results ++ [.taken (some (trim s.rx.buf))] } := by
  rcases takeLine_cases s with ⟨_, ht⟩ | ⟨hc, _⟩
  · exact ht
  · rw [h] at hc
    cases hc

/-- `TAKE` neither reads nor writes the mode and the phase (R157, R174). -/
theorem takeLine_withMode_withSeq (s : State) (m : Mode) (p : Fin 7) :
    takeLine ((s.withMode m).withSeq p) = ((takeLine s).withMode m).withSeq p := by
  rcases takeLine_cases s with ⟨hc, ht⟩ | ⟨hc, ht⟩ <;> rw [ht]
  · exact takeLine_of_complete (s := (s.withMode m).withSeq p) hc
  · exact takeLine_of_not_complete (s := (s.withMode m).withSeq p) hc

/-- At most the threshold (R100, R101). -/
theorem modeOf_eq_manual {w : Word} (h : w.toNat ≤ 1500) : modeOf w = .manual := by
  rw [modeOf_eq_ite, if_neg (Nat.not_lt.mpr h)]

/-- Above the threshold (R100, R101). -/
theorem modeOf_eq_autonomous {w : Word} (h : 1500 < w.toNat) : modeOf w = .autonomous := by
  rw [modeOf_eq_ite, if_pos h]

/-! ### One iteration with no other operation inside it (R160) -/

/-- What phases 1 and 2 do in the mode `m`: the manual command, or a `TAKE`. -/
def mapCommand (m : Mode) (s : State) : State :=
  match m with
  | .manual => manualSteer (manualThrottle s)
  | .autonomous => takeLine s

/-- What phases 3 to 6 do. -/
def commitAndControl (s : State) : State := controlSiren (controlBeacon (scheduleIndicators (commit s)))

/-- The state one iteration in the mode `m` leaves. -/
def iteration (m : Mode) (s : State) : State := (commitAndControl ((mapCommand m s).withMode m)).withSeq 0

/-- Phases 3 to 6 write disjoint parts of the state: the commit the outputs and the inhibit, then each controller its own. -/
theorem commitAndControl_eq (s : State) :
    commitAndControl s =
      { s with
        act := (commit s).act
        ind := (commit s).ind.advance (commit s).act s.now
        bcn := s.bcn.advance (s.readWidth .bcn) s.now
        srn := s.srn.advance (s.readWidth .srn) s.now } := by
  cases s
  rfl

/-- The parts an iteration writes once the latch `cmd` is known (R160). -/
theorem iteration_eq (m : Mode) (s : State) :
    iteration m s =
      let u := mapCommand m s
      { u with
        mode := m
        seq := 0
        act := (commit u).act
        ind := (commit u).ind.advance (commit u).act u.now
        bcn := u.bcn.advance (u.readWidth .bcn) u.now
        srn := u.srn.advance (u.readWidth .srn) u.now } := by
  rw [iteration, commitAndControl_eq]
  rfl

/-- Phase 0 (R100, R156). -/
theorem exec_step_of_seq_eq_zero {s : State} (h : s.seq = 0) :
    exec .step s = .next ((s.withMode (modeOf s.width.mode)).withSeq 1) := by
  have hs : s = s.withSeq 0 := by rw [← h]; rfl
  rw [hs]
  rfl

/-- Phases 1 and 2 in the latched mode (R156, R158). -/
theorem execAll_mapping_phases (m : Mode) (s : State) :
    execAll [.step, .step] ((s.withMode m).withSeq 1) = .next (((mapCommand m s).withMode m).withSeq 3) := by
  cases m with
  | manual => rfl
  | autonomous =>
    have htake : exec .step ((s.withMode .autonomous).withSeq 1) =
        .next (((takeLine s).withMode .autonomous).withSeq 2) := by
      show Host.Outcome.next ((takeLine ((s.withMode .autonomous).withSeq 1)).withSeq 2) = _
      rw [takeLine_withMode_withSeq]
      rfl
    rw [execAll_cons_next htake]
    rfl

/-- Phases 3 to 6. -/
theorem execAll_last_phases (s : State) :
    execAll (.replicate 4 .step) (s.withSeq 3) = .next ((commitAndControl s).withSeq 0) := by
  cases s
  rfl

/-- Seven `STEP`s from phase 0 are one iteration in the mode that phase 0 decides. -/
theorem execAll_iter {s : State} (h : s.seq = 0) : execAll iter s = .next (iteration (modeOf s.width.mode) s) :=
  calc execAll iter s
    _ = execAll (.replicate 6 .step) ((s.withMode (modeOf s.width.mode)).withSeq 1) :=
      execAll_cons_next (exec_step_of_seq_eq_zero h)
    _ = execAll (.replicate 4 .step) (((mapCommand (modeOf s.width.mode) s).withMode (modeOf s.width.mode)).withSeq 3) :=
      execAll_append_next (js := .replicate 4 .step) (execAll_mapping_phases _ s)
    _ = .next (iteration (modeOf s.width.mode) s) := execAll_last_phases _

/-- Phases 1 and 2 write the latch, the buffer and the results only. -/
theorem mapCommand_frame (m : Mode) (s : State) :
    ∃ cmd rx results, mapCommand m s = { s with cmd := cmd, rx := rx, results := results } := by
  cases m with
  | manual => exact ⟨_, _, _, rfl⟩
  | autonomous => rcases takeLine_cases s with ⟨_, ht⟩ | ⟨_, ht⟩ <;> exact ⟨_, _, _, ht⟩

/-- What no iteration touches, and where it ends. -/
theorem iteration_frame (m : Mode) (s : State) :
    (iteration m s).seq = 0 ∧ (iteration m s).now = s.now ∧ (iteration m s).start = s.start ∧
      (iteration m s).armed = s.armed ∧ (iteration m s).width = s.width ∧ (iteration m s).cfg = s.cfg ∧
      (iteration m s).trace = s.trace := by
  obtain ⟨_, _, _, hmap⟩ := mapCommand_frame m s
  rw [iteration_eq, hmap]
  exact ⟨rfl, rfl, rfl, rfl, rfl, rfl, rfl⟩

/-- The indicator scheduler keeps the inhibit that the commit left (R26, R179). -/
theorem iteration_inhibit (m : Mode) (s : State) :
    (iteration m s).ind.inhibit = (commit (mapCommand m s)).ind.inhibit :=
  Indicators.advance_inhibit _ _ _

/-- The indicators are scheduled on the outputs and the inhibit that the iteration leaves; the beacon and the siren follow
their widths only, which the iteration does not write (R160). -/
theorem iteration_controllers (m : Mode) (s : State) :
    (iteration m s).ind =
        { s.ind with inhibit := (iteration m s).ind.inhibit }.advance (iteration m s).act s.now ∧
      (iteration m s).bcn = (controlBeacon s).bcn ∧ (iteration m s).srn = (controlSiren s).srn := by
  obtain ⟨_, _, _, hmap⟩ := mapCommand_frame m s
  rw [iteration_inhibit, iteration_eq, hmap]
  exact ⟨rfl, rfl, rfl⟩

end Sys2Proof.Machine

end

/-! ## The statements about the sequencer -/

section

open Sys2Proof Sys2Proof.Machine

namespace Sys2Proof.Proofs

/-- Settles O31: what the phase leaves is what its operation alone leaves (`execAll_phaseOperations`). -/
theorem stepPerformsThePhaseAndAdvances : Obligations.StepPerformsThePhaseAndAdvances := by
  refine ⟨rfl, fun s => ⟨performPhase s, rfl, ?_⟩⟩
  have hphase {p m} (hp : s.seq = p) (hm : s.mode = m) := execAll_phaseOperations hp hm
  have hpass (hp : s.seq = 2) (hm : s.mode = .autonomous) : Host.Outcome.next s = .next (performPhase s) :=
    hphase hp hm
  exact ⟨fun h0 => hphase h0 rfl, hphase, hphase, hphase, fun h2 hm => (Host.Outcome.next.inj (hpass h2 hm)).symm,
    fun h3 => hphase h3 rfl, fun h4 => hphase h4 rfl, fun h5 => hphase h5 rfl, fun h6 => hphase h6 rfl⟩

/-- Settles O34: the iteration's state is known (`execAll_iter`), so each clause reads off a part of it, by the mode that
the mode channel's width decides and by whether a line is complete. -/
theorem iterationComputesOutputsFromInputs : Obligations.IterationComputesOutputsFromInputs := by
  intro s hseq
  obtain ⟨hind, hbcn, hsrn⟩ := iteration_controllers (modeOf s.width.mode) s
  obtain ⟨hphase, hnow, hstart, harmed, hwidth, hcfg, hrun⟩ := iteration_frame (modeOf s.width.mode) s
  refine ⟨_, execAll_iter hseq, hphase, hnow, hstart, harmed, hwidth, hcfg, hrun, fun hw => ?_, fun hw hc => ?_,
    fun hw hc => ?_, ⟨_, rfl, hind⟩, ⟨_, rfl, hbcn⟩, ⟨_, rfl, hsrn⟩⟩
  · rw [modeOf_eq_manual hw, iteration_inhibit, iteration_eq]
    exact ⟨rfl, rfl, rfl, rfl, rfl, rfl⟩
  · rw [modeOf_eq_autonomous hw, iteration_inhibit, iteration_eq, mapCommand, takeLine_of_not_complete hc]
    exact ⟨rfl, rfl, rfl, rfl, rfl, rfl⟩
  · have htake := takeLine_of_complete hc
    rw [modeOf_eq_autonomous hw, iteration_inhibit, iteration_eq]
    exact ⟨rfl, congrArg State.rx htake, congrArg State.results htake, takeLine s, commit (takeLine s), rfl, rfl, rfl, rfl,
      rfl⟩

/-- Settles O35: the reset state has the table's values, and only the configuration, the run and the results are carried
over. -/
theorem resetGivesEveryElementItsValue : Obligations.ResetGivesEveryElementItsValue :=
  ⟨rfl, fun _ => ⟨_, rfl, rfl, rfl⟩⟩

end Sys2Proof.Proofs

end

/-! ## Indicators, beacon, siren: their predicates on numbers, and the left side's timer along a sequence

Between two left toggles the time since the last one only grows, by what the operations tick, as long as no toggle
restarts it and no `RESET` occurs; so below 200000 microseconds the timer does not become due (R180). -/

section

namespace Sys2Proof.Machine

/-! ### The predicates of R177, R181, R182 and the timers of R221, unsigned -/

theorem reversing_iff {a : Actuators} : reversing a = true ↔ a.throttle.toNat < 1500 :=
  decide_eq_true_iff

theorem turningLeft_iff {a : Actuators} :
    turningLeft a = true ↔ 1500 ≤ a.throttle.toNat ∧ a.steer.toNat < 1450 := by
  rw [turningLeft, Bool.and_eq_true, Bool.not_eq_true', ← Bool.not_eq_true, reversing_iff, Nat.not_lt]
  exact and_congr_right fun _ => decide_eq_true_iff

theorem turningRight_iff {a : Actuators} :
    turningRight a = true ↔ 1500 ≤ a.throttle.toNat ∧ 1550 < a.steer.toNat := by
  rw [turningRight, Bool.and_eq_true, Bool.not_eq_true', ← Bool.not_eq_true, reversing_iff, Nat.not_lt]
  exact and_congr_right fun _ => decide_eq_true_iff

theorem due_iff {now t period : Word} : due now t period = true ↔ period.toNat ≤ (now - t).toNat :=
  decide_eq_true_iff

theorem beaconActive_iff {w : Word} : beaconActive w = true ↔ 1600 < w.toNat :=
  decide_eq_true_iff

theorem sirenActive_iff {w : Word} : sirenActive w = true ↔ 1500 < w.toNat :=
  decide_eq_true_iff

/-! ### What the scheduler does to the left side (R178) -/

/-- The left lamp and its stamp after the scheduler's step: a toggle restarts the timer; otherwise the stamp is kept
and the lamp waits for the timer, is lit by reversing, or is darkened. -/
theorem Indicators.advance_left_cases (a : Actuators) (now : Word) (i : Indicators) :
    (i.inhibit = false ∧ 1500 ≤ a.throttle.toNat ∧ a.steer.toNat < 1450 ∧ 200000 ≤ (now - i.tL).toNat ∧
      (i.advance a now).left = (!i.left) ∧ (i.advance a now).tL = now) ∨
    ((i.advance a now).tL = i.tL ∧
      (i.inhibit = false ∧ 1500 ≤ a.throttle.toNat ∧ a.steer.toNat < 1450 ∧ (i.advance a now).left = i.left ∨
       i.inhibit = false ∧ a.throttle.toNat < 1500 ∧ (i.advance a now).left = true ∨
       (i.inhibit = true ∨ 1500 ≤ a.throttle.toNat ∧ 1450 ≤ a.steer.toNat) ∧ (i.advance a now).left = false)) := by
  have hright (h : turningRight a = true) : 1500 ≤ a.throttle.toNat ∧ 1450 ≤ a.steer.toNat := by
    have := turningRight_iff.mp h
    omega
  rcases i.advance_cases a now with ⟨hinh, h⟩ | ⟨hinh, hrev, h⟩ | ⟨hinh, hleft, hdue, h⟩ | ⟨hinh, hleft, _, h⟩ |
    ⟨_, hr, _, h⟩ | ⟨_, hr, _, h⟩ | ⟨_, hrev, hleft, _, h⟩ <;> rw [h]
  · exact .inr ⟨rfl, .inr (.inr ⟨.inl hinh, rfl⟩)⟩
  · exact .inr ⟨rfl, .inr (.inl ⟨hinh, reversing_iff.mp hrev, rfl⟩)⟩
  · obtain ⟨hthr, hsteer⟩ := turningLeft_iff.mp hleft
    exact .inl ⟨hinh, hthr, hsteer, due_iff.mp hdue, rfl, rfl⟩
  · obtain ⟨hthr, hsteer⟩ := turningLeft_iff.mp hleft
    exact .inr ⟨rfl, .inl ⟨hinh, hthr, hsteer, rfl⟩⟩
  · exact .inr ⟨rfl, .inr (.inr ⟨.inr (hright hr), rfl⟩)⟩
  · exact .inr ⟨rfl, .inr (.inr ⟨.inr (hright hr), rfl⟩)⟩
  · have hthr := mt reversing_iff.mpr (Bool.eq_false_iff.mp hrev)
    have hsteer := mt turningLeft_iff.mpr (Bool.eq_false_iff.mp hleft)
    exact .inr ⟨rfl, .inr (.inr ⟨.inr (by omega), rfl⟩)⟩

/-- The lamps and their stamps change in the scheduler's step and at `RESET`; `ACTWR` writes the inhibit only (R26). -/
theorem exec_ind_cases {s t : State} {i : Instr} (h : exec i s = .next t) :
    (∃ inhibit, t.ind = { s.ind with inhibit := inhibit }) ∨ (i = .reset ∧ t.ind = State.reset.ind) ∨
    (Performs .ind 4 s i ∧ t.now = s.now ∧ t.ind = s.ind.advance s.act s.now) := by
  cases exec_effect h with
  | reset => exact .inr (.inl ⟨rfl, rfl⟩)
  | mainLoop _ hu =>
    cases hu with
    | indicators hi => exact .inr (.inr ⟨hi, rfl, rfl⟩)
    | commit => exact .inl ⟨_, commit_ind s⟩
    | _ => exact .inl ⟨_, rfl⟩
  | _ => exact .inl ⟨_, rfl⟩

/-- An operation keeps the left side's stamp, or restarts a timer that was due. -/
theorem exec_tL_cases {s t : State} {i : Instr} (hi : i ≠ .reset) (h : exec i s = .next t) :
    t.ind.tL = s.ind.tL ∨ 200000 ≤ (s.now - s.ind.tL).toNat := by
  rcases exec_ind_cases h with ⟨_, ht⟩ | ⟨hreset, _⟩ | ⟨_, _, ht⟩
  · exact .inl (ht ▸ rfl)
  · exact absurd hreset hi
  · rw [ht]
    rcases s.ind.advance_left_cases s.act s.now with ⟨_, _, _, hdue, _⟩ | ⟨hkept, _⟩
    · exact .inr hdue
    · exact .inl hkept

/-- A left toggle happens when the timer is due, and restarts it. -/
theorem timer_of_togglesLeft {i : Instr} {s t : State} (h : Safety.togglesLeft i s t) :
    200000 ≤ (s.now - s.ind.tL).toNat ∧ t.ind.tL = t.now := by
  obtain ⟨hi, hexec, hinh, hthr, hsteer, htoggle⟩ := h
  have hscheduled : t.now = s.now ∧ t.ind = s.ind.advance s.act s.now := by
    rcases exec_ind_cases hexec with ⟨_, ht⟩ | ⟨rfl, _⟩ | ⟨_, ht⟩
    · simp [ht] at htoggle
    · rcases hi with hi | ⟨hi, _⟩ <;> cases hi
    · exact ht
  obtain ⟨hnow, hind⟩ := hscheduled
  rw [hind] at htoggle ⊢
  rw [hnow]
  rcases s.ind.advance_left_cases s.act s.now with ⟨_, _, _, hdue, _, htL⟩ |
    ⟨_, ⟨_, _, _, hl⟩ | ⟨_, hrev, _⟩ | ⟨hdark, _⟩⟩
  · exact ⟨hdue, htL⟩
  · simp [hl] at htoggle
  · omega
  · simp only [hinh, Bool.false_eq_true, false_or] at hdark
    omega

/-- The time since a stamp grows by the time that passes, below one turn of the time base (R84). -/
theorem toNat_add_ofNat_sub (now t : Word) {n : Nat} (h : (now - t).toNat + n < 2 ^ 32) :
    (now + BitVec.ofNat 32 n - t).toNat = (now - t).toNat + n := by
  rw [show now + BitVec.ofNat 32 n - t = now - t + BitVec.ofNat 32 n by ring, BitVec.toNat_add, BitVec.toNat_ofNat,
    Nat.add_mod_mod, Nat.mod_eq_of_lt h]

/-- While less than 200000 microseconds have passed, the left side's timer does not become due (R180). -/
theorem execAll_left_timer_lt {ops : List Instr} {s t : State} (hops : Instr.reset ∉ ops)
    (h : execAll ops s = .next t) (hlt : (s.now - s.ind.tL).toNat + tickedTime ops < 200000) :
    (t.now - t.ind.tL).toNat < 200000 := by
  induction ops generalizing s with
  | nil =>
    cases h
    exact hlt
  | cons i ops ih =>
    obtain ⟨u, hu, hrest⟩ := execAll_cons_cases h
    obtain ⟨hi, hops⟩ := not_or.mp (List.mem_cons.not.mp hops)
    rw [tickedTime_cons] at hlt
    have htL : u.ind.tL = s.ind.tL := (exec_tL_cases (Ne.symm hi) hu).resolve_right (by omega)
    have hgrow : (u.now - u.ind.tL).toNat = (s.now - s.ind.tL).toNat + tickedTime [i] := by
      rw [exec_now (Ne.symm hi) hu, htL, toNat_add_ofNat_sub _ _ (by omega)]
    exact ih hops hrest (by omega)

/-! ### The three controllers with their conditions on numbers (R178, R181, R182) -/

theorem Indicators.advance_eq_ite (a : Actuators) (now : Word) (i : Indicators) :
    i.advance a now =
      if i.inhibit = true then { i with left := false, right := false }
      else if a.throttle.toNat < 1500 then { i with left := true, right := true }
      else if a.steer.toNat < 1450 then
        if 200000 ≤ (now - i.tL).toNat then { i with right := false, left := !i.left, tL := now }
        else { i with right := false }
      else if 1550 < a.steer.toNat then
        if 200000 ≤ (now - i.tR).toNat then { i with left := false, right := !i.right, tR := now }
        else { i with left := false }
      else { i with left := false, right := false } := by
  have hblink (t : Word) : due now t Config.tBlink = true ↔ 200000 ≤ (now - t).toNat := due_iff
  by_cases hrev : a.throttle.toNat < 1500
  · simp [Indicators.advance, reversing_iff, hrev]
  · have hfwd : 1500 ≤ a.throttle.toNat := Nat.not_lt.mp hrev
    simp [Indicators.advance, reversing_iff, turningLeft_iff, turningRight_iff, hblink, hrev, hfwd]

theorem Beacon.advance_eq_ite (w now : Word) (b : Beacon) :
    b.advance w now =
      if 1600 < w.toNat then
        if 300000 ≤ (now - b.tB).toNat then
          if b.phase = .colourA then { phase := .colourB, red := false, blue := true, third := false, tB := now }
          else { phase := .colourA, red := true, blue := false, third := false, tB := now }
        else if b.phase = .colourA then { b with red := true, blue := false, third := false }
        else { b with red := false, blue := true, third := false }
      else { b with red := false, blue := false, third := false } := by
  have hbeacon : due now b.tB Config.tBeacon = true ↔ 300000 ≤ (now - b.tB).toNat := due_iff
  simp only [Beacon.advance, beaconActive_iff, Beacon.light, hbeacon]
  refine if_congr Iff.rfl ?_ rfl
  by_cases hdue : 300000 ≤ (now - b.tB).toNat
  · simp only [hdue, if_true]
    cases b.phase <;> rfl
  · simp only [hdue, if_false]
    cases b.phase <;> rfl

theorem Siren.advance_eq_ite (w now : Word) (f : Siren) :
    f.advance w now =
      if 1500 < w.toNat then
        if 5000 ≤ (now - f.tS).toNat then
          if f.dir = .up then
            { on := true, freq := f.freq + 10, dir := if 1000 ≤ f.freq + 10 then .down else .up, tS := now }
          else { on := true, freq := f.freq - 10, dir := if f.freq - 10 ≤ 500 then .up else .down, tS := now }
        else { f with on := true }
      else { f with on := false } := by
  have hsiren : due now f.tS Config.tSiren = true ↔ 5000 ≤ (now - f.tS).toNat := due_iff
  simp only [Siren.advance, sirenActive_iff, hsiren]
  refine if_congr Iff.rfl (if_congr Iff.rfl ?_ rfl) rfl
  simp only [Siren.sweep]
  cases f.dir <;> rfl

end Sys2Proof.Machine

end

/-! ## The statements about indicators, beacon and siren -/

section

open Sys2Proof Sys2Proof.Machine Sys2Proof.Safety

namespace Sys2Proof.Proofs

/-- Settles O48: the first toggle restarts the timer and the second needs it due, which takes 200000 microseconds of
`TICK`s; and what the scheduler does to the left lamp without its timer is one of the listed forcings. -/
theorem leftTogglesAreSpaced : Obligations.LeftTogglesAreSpaced := by
  refine ⟨fun i j ops s₀ s₁ s₂ s₃ hfirst hops hreset hsecond => ?_, fun i s t h hne => ?_⟩
  · obtain ⟨_, hrestart⟩ := timer_of_togglesLeft hfirst
    obtain ⟨hdue, _⟩ := timer_of_togglesLeft hsecond
    by_contra! hshort
    have hstart : (s₁.now - s₁.ind.tL).toNat = 0 := by rw [hrestart, BitVec.sub_self, BitVec.toNat_zero]
    have hnotDue := execAll_left_timer_lt hreset hops (by omega)
    omega
  · rcases exec_ind_cases h with ⟨_, ht⟩ | ⟨hi, _⟩ | ⟨hi, _, ht⟩
    · exact absurd (ht ▸ rfl) hne
    · exact .inl hi
    · rcases s.ind.advance_left_cases s.act s.now with ⟨hinh, hthr, hsteer, _, hleft, _⟩ |
        ⟨_, ⟨_, _, _, hleft⟩ | ⟨hinh, hrev, hleft⟩ | ⟨hdark, hleft⟩⟩ <;> rw [← ht] at hleft
      · exact .inr (.inl ⟨hi, h, hinh, hthr, hsteer, hleft⟩)
      · exact absurd hleft hne
      · exact .inr (.inr (.inl ⟨hi, hinh, hrev, hleft⟩))
      · exact .inr (.inr (.inr ⟨hi, hdark, hleft⟩))

/-- Settles O47: the scheduler's predicates on numbers, tested one after another. -/
theorem indFollowsTheScheduler : Obligations.IndFollowsTheScheduler := by
  refine ⟨by decide, fun s => ?_⟩
  rw [← Indicators.advance_eq_ite]
  rfl

/-- Settles O49: the colour is shown after the toggle that its timer may ask for. -/
theorem bcnFollowsTheController : Obligations.BcnFollowsTheController := by
  refine ⟨by decide, fun s => ?_⟩
  rw [← Beacon.advance_eq_ite]
  rfl

/-- Settles O51: one step of the sweep when its timer is due, in the direction it has. -/
theorem srnFollowsTheController : Obligations.SrnFollowsTheController := by
  refine ⟨by decide, fun s => ?_⟩
  rw [← Siren.advance_eq_ite]
  rfl

end Sys2Proof.Proofs

end

/-! ## The text of a line taken: what `trim` leaves, what `parse` answers, and two lines run together

A recognised text begins with one of the letters `S`, `N`, `D` and holds none of them after that (R69, R70), so two of
them run together are none. -/

section

namespace Sys2Proof

/-! ### White space and `trim` (R175) -/

theorem isSpace_iff {b : Byte} : isSpace b = true ↔ b ∈ ([0x20, 0x09, 0x0A, 0x0B, 0x0C, 0x0D] : List Byte) := by
  simp [isSpace, or_assoc]

/-- What `trim` leaves does not begin with white space. -/
theorem trim_head_not_space {text : List Byte} : ∀ b ∈ (trim text).head?, isSpace b = false := by
  intro b hb
  have hne : trim text ≠ [] := by rintro hnil; simp [hnil] at hb
  have hfront : (text.dropWhile isSpace).head? = some b := by
    rw [← trim_append_rtakeWhile, List.head?_append_of_ne_nil _ hne]
    exact hb
  simpa [hfront] using List.head?_dropWhile_not isSpace text

/-- What `trim` leaves does not end with white space. -/
theorem trim_getLast_not_space {text : List Byte} : ∀ b ∈ (trim text).getLast?, isSpace b = false := by
  intro b hb
  obtain ⟨hne, rfl⟩ := List.mem_getLast?_eq_getLast hb
  exact Bool.eq_false_iff.mpr (List.rdropWhile_last_not isSpace (text.dropWhile isSpace) hne)

/-! ### The answers of `parse` (R176) -/

theorem parse_eq_stop_iff {nIsStop : Bool} {text : List Byte} :
    parse nIsStop text = .stopOrStraight ↔ text = [chS] ∨ text = [chN] ∧ nIsStop = true := by
  constructor
  · intro h
    rcases recognise_cases text with ⟨htext, _⟩ | ⟨htext, hr⟩ | ⟨_, _, _, _, _, hr⟩ | hr
    · exact .inl htext
    · exact .inr ⟨htext, by simpa [parse, hr] using h⟩
    · simp [parse, hr] at h
    · simp [parse, hr] at h
  · rintro (rfl | ⟨rfl, rfl⟩)
    · rw [parse, recognise_S]
    · rw [parse, recognise_N, if_pos rfl]

theorem parse_eq_deviation_iff {nIsStop : Bool} {text : List Byte} {d : Word} :
    parse nIsStop text = .deviation d ↔ ∃ sign digits, text = deviationText sign digits ∧ digits ≠ [] ∧
      inI32 (signedValue sign digits) = true ∧ d = BitVec.ofInt 32 (signedValue sign digits) := by
  constructor
  · intro h
    rcases recognise_cases text with ⟨_, hr⟩ | ⟨_, hr⟩ | ⟨sign, digits, hne, hrange, htext, hr⟩ | hr
    · simp [parse, hr] at h
    · cases nIsStop <;> simp [parse, hr] at h
    · rw [parse, hr] at h
      exact ⟨sign, digits, htext, hne, hrange, (ParsedCommand.deviation.inj h).symm⟩
    · simp [parse, hr] at h
  · rintro ⟨sign, digits, rfl, hne, hrange, rfl⟩
    exact parse_deviationText nIsStop hne hrange

theorem inI32_iff {v : Int} : inI32 v = true ↔ -(2 ^ 31) ≤ v ∧ v ≤ 2 ^ 31 - 1 := decide_eq_true_iff

/-- A word is the two's complement of a value within `i32` exactly if it reads as that value (R8). -/
theorem eq_ofInt_iff_toInt_eq {v : Int} (hv : inI32 v = true) (d : Word) : d = BitVec.ofInt 32 v ↔ d.toInt = v := by
  obtain ⟨hlo, hhi⟩ := inI32_iff.mp hv
  rw [← BitVec.toInt_inj, BitVec.toInt_ofInt_eq_self (by decide) hlo (Int.lt_of_le_sub_one hhi)]

/-- The three spellings of a sign, each with the value it gives the digits (R70). -/
theorem sign_spelling_iff {sign : List Byte} {digits : List (Fin 10)} {v : Int} :
    ((sign = [] ∨ sign = [0x2B]) ∧ v = decimal digits ∨ sign = [0x2D] ∧ v = -(decimal digits : Int)) ↔
      ∃ sg, sign = signBytes sg ∧ v = signedValue sg digits := by
  constructor
  · rintro (⟨rfl | rfl, rfl⟩ | ⟨rfl, rfl⟩)
    · exact ⟨none, rfl, rfl⟩
    · exact ⟨some .plus, rfl, rfl⟩
    · exact ⟨some .minus, rfl, rfl⟩
  · rintro ⟨_ | _ | _, rfl, rfl⟩
    · exact .inl ⟨.inl rfl, rfl⟩
    · exact .inl ⟨.inr rfl, rfl⟩
    · exact .inr ⟨rfl, rfl⟩

/-! ### Two lines run together (R173) -/

/-- The letters a recognised text begins with (R69). -/
def formLetters : List Byte := [chS, chN, chD]

theorem digitByte_not_mem_formLetters (d : Fin 10) : digitByte d ∉ formLetters := by
  revert d
  decide

theorem sign_not_mem_formLetters {sign : Option Sign} : ∀ b ∈ signBytes sign, b ∉ formLetters := by
  rcases sign with _ | _ | _ <;> decide

/-- A recognised text begins with its form's letter and holds no such letter after it. -/
theorem formLetter_of_recognise {core : List Byte} (h : recognise core ≠ .other) :
    ∃ c rest, core = c :: rest ∧ c ∈ formLetters ∧ ∀ b ∈ rest, b ∉ formLetters := by
  rcases recognise_cases core with ⟨rfl, _⟩ | ⟨rfl, _⟩ | ⟨sign, digits, _, _, rfl, _⟩ | hr
  · exact ⟨chS, [], rfl, by decide, by simp⟩
  · exact ⟨chN, [], rfl, by decide, by simp⟩
  · refine ⟨chD, _, rfl, by decide, fun b hb => ?_⟩
    rcases List.mem_cons.mp hb with rfl | hb
    · decide
    · rcases List.mem_append.mp hb with hb | hb
      · exact sign_not_mem_formLetters b hb
      · obtain ⟨d, _, rfl⟩ := List.mem_map.mp hb
        exact digitByte_not_mem_formLetters d
  · exact absurd hr h

/-- Two recognised texts with anything between them are no recognised text: the second one's letter stands behind the
front. -/
theorem recognise_run_together {first second : List Byte} (hfirst : recognise first ≠ .other)
    (hsecond : recognise second ≠ .other) (mid : List Byte) : recognise (first ++ mid ++ second) = .other := by
  by_contra hboth
  obtain ⟨c, rest, htext, _, hrest⟩ := formLetter_of_recognise hboth
  obtain ⟨c₁, rest₁, rfl, _⟩ := formLetter_of_recognise hfirst
  obtain ⟨c₂, rest₂, rfl, hc₂, _⟩ := formLetter_of_recognise hsecond
  obtain ⟨_, rfl⟩ := List.cons.inj htext
  exact hrest c₂ (by simp) hc₂

theorem parse_of_recognise_eq_other {nIsStop : Bool} {text : List Byte} (h : recognise text = .other) :
    parse nIsStop text = .unrecognized := by
  rw [parse, h]

/-- The terminators apart, a line is its bare text between white space. -/
theorem filter_lineBytes {pre core post : List Byte} (hcore : BareText core) :
    (lineBytes pre core post).filter (· ≠ lineTerm) =
      pre.filter (· ≠ lineTerm) ++ core ++ post.filter (· ≠ lineTerm) := by
  rw [lineBytes, List.filter_append, List.filter_append, List.filter_append, hcore.filter_eq]
  simp

/-- Two lines run together are trimmed to both texts and the white space between them (R173, R175). -/
theorem trim_run_together {pre₁ core₁ post₁ pre₂ core₂ post₂ : List Byte} (hcore₁ : BareText core₁)
    (hcore₂ : BareText core₂) (hpre₁ : pre₁.all isSpace = true) (hpost₂ : post₂.all isSpace = true) :
    trim ((lineBytes pre₁ core₁ post₁ ++ lineBytes pre₂ core₂ post₂).filter (· ≠ lineTerm)) =
      core₁ ++ (post₁.filter (· ≠ lineTerm) ++ pre₂.filter (· ≠ lineTerm)) ++ core₂ := by
  rw [List.filter_append, filter_lineBytes hcore₁, filter_lineBytes hcore₂]
  have hsplit (p q r u : List Byte) :
      p ++ core₁ ++ q ++ (r ++ core₂ ++ u) = p ++ (core₁ ++ (q ++ r) ++ core₂) ++ u := by simp
  rw [hsplit]
  refine trim_padded (all_isSpace_filter hpre₁ _) (all_isSpace_filter hpost₂ _) (by simp [hcore₁.1]) ?_ ?_
  · rw [List.append_assoc, List.head?_append_of_ne_nil _ hcore₁.1]
    exact hcore₁.head_not_space
  · rw [List.getLast?_append_of_ne_nil _ hcore₂.1]
    exact hcore₂.getLast_not_space

/-- An operation written as a line is a recognised bare text between white space (R68 to R70). -/
theorem line_of_encode {present : BitVec 5} {i : Instr} {bytes : List Byte} (hwf : i.wellFormed present = true)
    (henc : encode i = .line bytes) :
    ∃ pre core post, bytes = lineBytes pre core post ∧ pre.all isSpace = true ∧ post.all isSpace = true ∧
      BareText core ∧ recognise core ≠ .other := by
  have hdecode : decodeLine bytes = .op i := by
    have h := decodePacket_encode hwf
    rwa [henc] at h
  obtain ⟨pre, core, post, rfl, hpre, hpost, hcase⟩ := decodeLine_op_cases hdecode
  refine ⟨pre, core, post, rfl, hpre, hpost, ?_⟩
  rcases hcase with ⟨rfl, _⟩ | ⟨rfl, _⟩ | ⟨sign, digits, hne, hrange, rfl, _⟩
  · exact ⟨bareText_S, by simp [recognise_S]⟩
  · exact ⟨bareText_N, by simp [recognise_N]⟩
  · exact ⟨bareText_deviationText sign digits, by simp [recognise_deviationText hne hrange]⟩

end Sys2Proof

namespace Sys2Proof.Machine

/-- An operation written as a line receives that line's bytes (R60, R73). -/
theorem exec_of_encode_eq_line {i : Instr} {bytes : List Byte} (h : encode i = .line bytes) (s : State) :
    exec i s = .next (receiveLine bytes s) := by
  cases i with
  | lineS | lineN | lineD =>
    obtain rfl := Packet.line.inj h
    rfl
  | _ => cases h

/-- Bytes received in two parts (R58). -/
theorem receiveLine_append (first second : List Byte) (s : State) :
    receiveLine (first ++ second) s = receiveLine second (receiveLine first s) :=
  congrArg s.withRx List.foldl_append

/-- Bytes that fit an empty buffer, a terminator among them, received and taken (R171, R174). -/
theorem takeLine_receiveLine_of_fits {bytes : List Byte} {s : State} (hbuf : s.rx.buf = []) (hterm : lineTerm ∈ bytes)
    (hfits : (bytes.filter (· ≠ lineTerm)).length ≤ s.cfg.bufCap) :
    takeLine (receiveLine bytes s) =
      { s with
        rx := { buf := [], complete := false }
        cmd := policy s.cfg (parse s.cfg.nIsStop (trim (bytes.filter (· ≠ lineTerm)))) s.cmd
        results := s.results ++ [.taken (some (trim (bytes.filter (· ≠ lineTerm))))] } := by
  have hrx : (receiveLine bytes s).rx = { buf := bytes.filter (· ≠ lineTerm), complete := true } := by
    have hcomplete : bytes.any (· == lineTerm) = true := List.any_eq_true.mpr ⟨lineTerm, hterm, BEq.rfl⟩
    rw [receiveLine_eq, State.withRx_rx, Receiver.acceptAll_eq, hbuf, hcomplete, Bool.or_true, List.nil_append,
      List.length_nil, Nat.sub_zero, List.take_of_length_le hfits]
  rw [takeLine_of_complete (congrArg Receiver.complete hrx), hrx]
  rfl

end Sys2Proof.Machine

end

/-! ## The statements about the command receiver and the parser -/

section

open Sys2Proof Sys2Proof.Machine

namespace Sys2Proof.Proofs

/-- Settles O46: the two texts run together are trimmed to a text that is none of the recognised ones. -/
theorem linesWithoutTakeRunTogether : Obligations.LinesWithoutTakeRunTogether := by
  intro i j first second s hbuf hi hj hwfi hwfj hfits
  obtain ⟨pre₁, core₁, post₁, rfl, hpre₁, _, hcore₁, hform₁⟩ := line_of_encode hwfi hi
  obtain ⟨pre₂, core₂, post₂, rfl, _, hpost₂, hcore₂, hform₂⟩ := line_of_encode hwfj hj
  have hother := recognise_run_together hform₁ hform₂ (post₁.filter (· ≠ lineTerm) ++ pre₂.filter (· ≠ lineTerm))
  rw [← trim_run_together hcore₁ hcore₂ hpre₁ hpost₂] at hother
  have hterm : lineTerm ∈ lineBytes pre₁ core₁ post₁ ++ lineBytes pre₂ core₂ post₂ := by simp [lineBytes]
  have htake := takeLine_receiveLine_of_fits hbuf hterm hfits
  rw [parse_of_recognise_eq_other hother, receiveLine_append] at htake
  refine ⟨_, rfl, ?_⟩
  rw [execAll_cons_next (exec_of_encode_eq_line hi _), execAll_cons_next (exec_of_encode_eq_line hj _)]
  exact congrArg Host.Outcome.next htake

/-- Settles O42: the three parts of a text make it up (`splitLine_append`), and the middle one is bare at both ends. -/
theorem trimRemovesOuterWhiteSpaceOnly : Obligations.TrimRemovesOuterWhiteSpaceOnly := by
  intro text
  obtain ⟨htext, hpre, hpost⟩ := splitLine_append (text := text) rfl
  have hspace (b : Byte) : isSpace b = false ↔ b ∉ ([0x20, 0x09, 0x0A, 0x0B, 0x0C, 0x0D] : List Byte) := by
    rw [← isSpace_iff, Bool.not_eq_true]
  refine ⟨_, _, htext, fun b hb => isSpace_iff.mp ?_, fun b hb => (hspace b).mp (trim_head_not_space b hb),
    fun b hb => (hspace b).mp (trim_getLast_not_space b hb)⟩
  exact (List.mem_append.mp hb).elim (List.all_eq_true.mp hpre b) (List.all_eq_true.mp hpost b)

/-- Settles O43: the texts that `parse` answers each command on, the sign and the value spelled out. -/
theorem parseRecognisesExactlyTheListedForms : Obligations.ParseRecognisesExactlyTheListedForms := by
  refine fun nIsStop text => ⟨parse_eq_stop_iff, fun d => parse_eq_deviation_iff.trans ⟨?_, ?_⟩⟩
  · rintro ⟨sg, digits, htext, hne, hrange, hd⟩
    obtain ⟨hlo, hhi⟩ := inI32_iff.mp hrange
    exact ⟨signBytes sg, digits, signedValue sg digits, htext, hne, sign_spelling_iff.mpr ⟨sg, rfl, rfl⟩, hlo, hhi,
      (eq_ofInt_iff_toInt_eq hrange d).mp hd⟩
  · rintro ⟨_, digits, _, htext, hne, hsign, hlo, hhi, hd⟩
    obtain ⟨sg, rfl, rfl⟩ := sign_spelling_iff.mp hsign
    have hrange := inI32_iff.mpr ⟨hlo, hhi⟩
    exact ⟨sg, digits, htext, hne, hrange, (eq_ofInt_iff_toInt_eq hrange d).mpr hd⟩

/-- Settles O38: the receiver's own three cases. -/
theorem byteIsStoredOrTerminates : Obligations.ByteIsStoredOrTerminates :=
  fun _ _ => ⟨rfl, rfl⟩

/-- Settles O40: with a complete line policy runs on what the trimmed line parses to, with none it is `MAPNONE`'s. -/
theorem takeParsesAndClearsACompleteLine : Obligations.TakeParsesAndClearsACompleteLine := by
  refine ⟨by decide, fun s => ⟨fun hc => ?_, fun hc => ?_⟩⟩
  · refine ⟨s.withCmd (policy s.cfg (parse s.cfg.nIsStop (trim s.rx.buf)) s.cmd), fun d hp => ?_, fun hp => ?_,
      fun hp => ?_, congrArg Host.Outcome.next (takeLine_of_complete hc)⟩
    all_goals
      rw [hp]
      rfl
  · exact ⟨s.withCmd (policyNone s.cmd), rfl, congrArg Host.Outcome.next (takeLine_of_not_complete hc)⟩

end Sys2Proof.Proofs

end

/-! ## The statement about completion -/

section

open Sys2Proof Sys2Proof.Machine

namespace Sys2Proof.Proofs

/-- Settles O10: only a handler can be refused, and well-formedness asks that its channel is present. -/
theorem wellFormedOperationsComplete : Obligations.WellFormedOperationsComplete :=
  fun _ _ hwf => exec_completes hwf

end Sys2Proof.Proofs

end

/-! ## The first iteration after `RESET`: widths inside every bound pass the clamps and switch nothing on -/

section

namespace Sys2Proof.Machine

/-! ### When each controller shows nothing (R177, R178, R181, R182) -/

/-- Driving forward and straight, neither lamp is lit, whatever the inhibit (R178). -/
theorem Indicators.advance_of_straight {a : Actuators} (hthr : 1500 ≤ a.throttle.toNat)
    (hleft : 1450 ≤ a.steer.toNat) (hright : a.steer.toNat ≤ 1550) (now : Word) (i : Indicators) :
    i.advance a now = { i with left := false, right := false } := by
  rw [Indicators.advance_eq_ite, if_neg (Nat.not_lt.mpr hthr), if_neg (Nat.not_lt.mpr hleft),
    if_neg (Nat.not_lt.mpr hright), ite_self]

theorem Beacon.advance_of_inactive {w : Word} (hw : w.toNat ≤ 1600) (now : Word) (b : Beacon) :
    b.advance w now = { b with red := false, blue := false, third := false } := by
  rw [Beacon.advance_eq_ite, if_neg (Nat.not_lt.mpr hw)]

theorem Siren.advance_of_inactive {w : Word} (hw : w.toNat ≤ 1500) (now : Word) (f : Siren) :
    f.advance w now = { f with on := false } := by
  rw [Siren.advance_eq_ite, if_neg (Nat.not_lt.mpr hw)]

/-! ### A manual iteration on widths inside the clamps (R102, R160) -/

/-- A manual iteration hands nothing back (R164). -/
theorem iteration_manual_results (s : State) : (iteration .manual s).results = s.results := by
  rw [iteration_eq]
  rfl

/-- Inside both clamps the outputs are the two widths themselves. -/
theorem iteration_manual_act {s : State} (hsteer : Config.steerLo ≤ s.width.steer ∧ s.width.steer ≤ Config.steerHi)
    (hthr : s.cfg.thrLo ≤ s.width.thr ∧ s.width.thr ≤ s.cfg.thrHi) :
    (iteration .manual s).act = ⟨s.width.steer, s.width.thr⟩ :=
  calc (iteration .manual s).act
    _ = ⟨clamp s.width.steer Config.steerLo Config.steerHi, clamp s.width.thr s.cfg.thrLo s.cfg.thrHi⟩ := rfl
    _ = ⟨s.width.steer, s.width.thr⟩ := by
      rw [clamp_inside hsteer.1 hsteer.2, clamp_inside hthr.1 hthr.2]

/-- Under a legal configuration 1500 is inside the throttle clamp (R22, R102). -/
theorem neutral_inside_throttle_clamp {cfg : Config} (h : cfg.Legal) : cfg.thrLo ≤ 1500 ∧ 1500 ≤ cfg.thrHi := by
  obtain ⟨⟨_, hlo⟩, _, ⟨hhi, _⟩, _⟩ := h
  exact ⟨hlo, hhi⟩

/-- With every channel at neutral, seven `STEP`s from phase 0 hand back nothing, put both outputs at neutral and leave
every line off. -/
theorem execAll_iter_of_neutral {s : State} (hcfg : s.cfg.Legal) (hseq : s.seq = 0)
    (hwidth : s.width = PerChannel.fill 1500) :
    ∃ t, execAll iter s = .next t ∧ t.results = s.results ∧ t.act = ⟨1500, 1500⟩ ∧
      (t.ind.left = false ∧ t.ind.right = false) ∧
      (t.bcn.red = false ∧ t.bcn.blue = false ∧ t.bcn.third = false) ∧ t.srn.on = false := by
  have hmode : modeOf s.width.mode = .manual := by
    rw [hwidth]
    rfl
  have hact : (iteration .manual s).act = ⟨1500, 1500⟩ := by
    rw [iteration_manual_act] <;> rw [hwidth]
    · rfl
    · exact ⟨by decide, by decide⟩
    · exact neutral_inside_throttle_clamp hcfg
  obtain ⟨hind, hbcn, hsrn⟩ := iteration_controllers .manual s
  rw [hact, Indicators.advance_of_straight (by decide) (by decide) (by decide)] at hind
  have hbeacon : (s.readWidth .bcn).toNat ≤ 1600 := by
    rw [State.readWidth, hwidth]
    decide
  have hsiren : (s.readWidth .srn).toNat ≤ 1500 := by
    rw [State.readWidth, hwidth]
    decide
  rw [controlBeacon, Beacon.advance_of_inactive hbeacon] at hbcn
  rw [controlSiren, Siren.advance_of_inactive hsiren] at hsrn
  refine ⟨iteration .manual s, hmode ▸ execAll_iter hseq, iteration_manual_results s, hact, ?_⟩
  rw [hind, hbcn, hsrn]
  exact ⟨⟨rfl, rfl⟩, ⟨rfl, rfl, rfl⟩, rfl⟩

end Sys2Proof.Machine

end

/-! ## The statement about the first iteration after `RESET` -/

section

open Sys2Proof Sys2Proof.Machine

namespace Sys2Proof.Proofs

/-- Settles O37: `RESET` leaves phase 0 and every width at neutral under the same configuration, so the iteration after
it is one on neutral widths, and `FRAME` adds the pair it leaves to the results. -/
theorem firstIterationAfterResetIsNeutral : Obligations.FirstIterationAfterResetIsNeutral := by
  intro s hcfg
  obtain ⟨u, hiter, hresults, hact, ⟨hleft, hright⟩, ⟨hred, hblue, hthird⟩, hon⟩ :=
    execAll_iter_of_neutral (s := { State.reset with cfg := s.cfg, trace := s.trace, results := s.results }) hcfg rfl rfl
  refine ⟨u.giveResult (.frame u.act.steer u.act.throttle), ?_, ?_, hact, hleft, hright, hred, hblue, hthird, hon⟩
  · exact (execAll_cons_next rfl).trans (execAll_append_next hiter)
  · rw [State.giveResult_results, hresults, hact]

end Sys2Proof.Proofs

end

/-! ## The statements about the run and the results, fields of the model's own -/

section

open Sys2Proof Sys2Proof.Machine

namespace Sys2Proof.Machine

/-- `step` on a run with no packet left: the case beside `step_op`, `step_otherLine` and `step_bad` (R164). -/
theorem step_nil {s : State} (ht : s.trace = []) : step s = .refused .runEnded := by
  simp only [step, performNext, ht]

/-- `RESET` is the reset state under the configuration, the run and the results of before (R161, R241). -/
theorem exec_reset (s : State) :
    exec .reset s = .next { State.reset with cfg := s.cfg, trace := s.trace, results := s.results } := rfl

end Sys2Proof.Machine

namespace Sys2Proof.Proofs

/-- Settles O8. -/
theorem runEndsWhereItsSequenceEnds : Obligations.RunEndsWhereItsSequenceEnds :=
  fun _ htrace => step_nil htrace

/-- Settles O36: the run and the results are among what `RESET` carries over. -/
theorem resetKeepsTheRunAndItsResults : Obligations.ResetKeepsTheRunAndItsResults :=
  fun s => ⟨_, exec_reset s, rfl, rfl⟩

end Sys2Proof.Proofs

end
